-- ==== Sys2Proof/Word.lean ====
section
/-! DEFINITION. The words of NSC-INTEG (spec/00_scope.md R12): bytes, 32-bit words, byte strings and the 32-byte value
that the hash port delivers. Every value is unsigned. -/

namespace Sys2Proof

/-- `u8` of R12. -/
abbrev Byte := BitVec 8

/-- `u32` of R12: a register, a command word, a CRC value. -/
abbrev Word := BitVec 32

/-- A byte string of R12, indexed from 0; `s ‖ t` is `s ++ t`. -/
abbrev ByteString := List Byte

/-- The payload of a hash response (R104): 32 bytes, byte 0 first; its length is part of its type (R45). -/
abbrev Bytes32 := Vector Byte 32

end Sys2Proof
end

