-- ==== Sys2Proof/Syntax.lean ====
section
/-! DEFINITION. The instructions of NSC-INTEG: the five commands of spec/30_encoding.md R72 (a word written to CMD, R69).
Host reads and writes of the other registers and windows are no instructions (R69); they are the accesses of
Machine/State.lean. -/

namespace Sys2Proof

/-- One constructor per row of the opcode table (R72). Every value is a command: the only operand is a whole byte (R76). -/
inductive Instr where
  /-- NOP (R116) -/
  | nop
  /-- CRC_INIT (R87) -/
  | crcInit
  /-- CRC_BYTE b (R88) -/
  | crcByte (b : Byte)
  /-- KD_START (R96) -/
  | kdStart
  /-- STAT_CLR (R117) -/
  | statClr
deriving DecidableEq, Repr

end Sys2Proof
end

