-- ==== Sys2Proof/WellFormed.lean ====
section
/-! DEFINITION. When a 32-bit command word is well formed, read off the FIELDS of the command format (spec/30_encoding.md
R71, R73) and not off the decoder: the opcode is a listed one, RSV is zero, and IMM8 is zero unless the opcode is
CRC_BYTE's. The type `Instr` itself leaves nothing to check: its one operand is a `Byte`. -/

namespace Sys2Proof

/-- Field OP, bits [31:24] (R71). -/
def opField (w : Word) : Byte := w.extractLsb' 24 8

/-- Field RSV, bits [23:8] (R71). -/
def rsvField (w : Word) : BitVec 16 := w.extractLsb' 8 16

/-- Field IMM8, bits [7:0] (R71). -/
def immField (w : Word) : Byte := w.extractLsb' 0 8

/-- OP is one of the five opcodes of R72. -/
def opcodeListed (w : Word) : Bool :=
  opField w == 0x00 || opField w == 0x01 || opField w == 0x02 || opField w == 0x10 || opField w == 0x20

/-- RSV is zero (R73). -/
def reservedZero (w : Word) : Bool := rsvField w == 0

/-- IMM8 is zero in every command but CRC_BYTE (R73). -/
def immediateLegal (w : Word) : Bool := opField w == 0x02 || immField w == 0

/-- The word is one of the 260 legal words of R74. -/
def commandWellFormed (w : Word) : Bool := opcodeListed w && reservedZero w && immediateLegal w

end Sys2Proof
end

