-- ==== Sys2Proof/Decode.lean ====
section
/-! DEFINITION. The command decoder, total on all 32-bit words (spec/30_encoding.md R78), the rows of the opcode table
(R72) as data, and the encoder. -/

namespace Sys2Proof

/-- Why a command word is no command. The spec has ONE reason, ILLEGAL (R74, R78). -/
inductive Reject where
  | illegal
deriving DecidableEq, Repr

/-- The decoder of R78, its tests in the order the rule gives them. -/
def decode (w : Word) : Except Reject Instr :=
  if w = 0x00000000#32 then .ok .nop
  else if w = 0x01000000#32 then .ok .crcInit
  else if w &&& 0xFFFFFF00#32 = 0x02000000#32 then .ok (.crcByte (w.extractLsb' 0 8))
  else if w = 0x10000000#32 then .ok .kdStart
  else if w = 0x20000000#32 then .ok .statClr
  else .error .illegal

/-- The command word of an instruction: OP, RSV and IMM8 side by side (R71, opcodes from R72). -/
def encode : Instr → Word
  | .nop => 0x00#8 ++ 0x0000#16 ++ 0x00#8
  | .crcInit => 0x01#8 ++ 0x0000#16 ++ 0x00#8
  | .crcByte b => 0x02#8 ++ 0x0000#16 ++ b
  | .kdStart => 0x10#8 ++ 0x0000#16 ++ 0x00#8
  | .statClr => 0x20#8 ++ 0x0000#16 ++ 0x00#8

/-- A row of the opcode table: a word `w` selects it when `w & mask = pattern` (R72; the table calls it match). -/
structure OpcodeRow where
  mnemonic : String
  mask : Word
  pattern : Word
deriving DecidableEq, Repr

/-- The word selects the row (R72). -/
def OpcodeRow.selects (r : OpcodeRow) (w : Word) : Bool := w &&& r.mask == r.pattern

/-- The opcode table (R72, spec/opcode_table.json). -/
def opcodeRows : List OpcodeRow :=
  [⟨"NOP", 0xFFFFFFFF, 0x00000000⟩, ⟨"CRC_INIT", 0xFFFFFFFF, 0x01000000⟩, ⟨"CRC_BYTE", 0xFFFFFF00, 0x02000000⟩,
   ⟨"KD_START", 0xFFFFFFFF, 0x10000000⟩, ⟨"STAT_CLR", 0xFFFFFFFF, 0x20000000⟩]

/-- The mnemonic of an instruction (R72). -/
def Instr.mnemonic : Instr → String
  | .nop => "NOP"
  | .crcInit => "CRC_INIT"
  | .crcByte _ => "CRC_BYTE"
  | .kdStart => "KD_START"
  | .statClr => "STAT_CLR"

/-- The instruction the decoder reads from a table word of `nbits` bits: the bits above `nbits` are zero, and no command
is longer than one 32-bit word (R77). -/
def decodeTableWord (nbits w : Nat) : Option Instr :=
  if nbits ≤ 32 then (decode (BitVec.ofNat 32 (w % 2 ^ nbits))).toOption else none

end Sys2Proof
end

