-- ==== Sys2Proof/Config.lean ====
section
/-! DEFINITION. What an implementation of NSC-INTEG fixes: the sizes of spec/00_scope.md R6 and R7, and the OPEN parameter
`Hash` of R8 as a free value. `BASE`, the other OPEN parameter, is an ARGUMENT of the address decoding
(Machine/Ops.lean, `windowOffset`). -/

namespace Sys2Proof

/-- The external block hash (R8, R9): a total, deterministic function of its input bytes of which NOTHING else is known.
It has no body, so no proof can use a property of it (log entry 3). -/
opaque Config.hash : ByteString → Bytes32

/-- `KEY_SIZE` (R6). -/
abbrev Config.keySize : Nat := 32

/-- `MAX_MESSAGE_SIZE` (R6). -/
abbrev Config.maxMessageSize : Nat := 256

/-- `DIGEST_SIZE` (R6). -/
abbrev Config.digestSize : Nat := 32

/-- The size of the register window in bytes (R7). -/
abbrev Config.windowSize : Nat := 0x800

end Sys2Proof
end

