-- ==== Sys2Proof/Machine/State.lean ====
section
/-! DEFINITION. The state of NSC-INTEG (spec/10_state.md R15, R32, R33, R35, R41) as plain data, the host accesses of
spec/20_memory.md R53, the events that drive the block (spec/00_scope.md R10), and the ways a step can stop. -/

namespace Sys2Proof.Machine

/-- The size `n` of a host access: 1, 2 or 4 bytes (R50, R53). -/
inductive Size where
  | one | two | four
deriving DecidableEq, Repr

/-- An n-byte value on the bus, its size being part of it (R53). -/
inductive Data where
  | b1 (v : Byte)
  | b2 (v : BitVec 16)
  | b4 (v : Word)
deriving DecidableEq, Repr

/-- A host access `(dir, off, n, wdata)` (R53); the size of a write is its data's. -/
inductive Access where
  | read (off : BitVec 11) (n : Size)
  | write (off : BitVec 11) (d : Data)
deriving DecidableEq, Repr

/-- The response of one host access (R53): `OK(v)` of a read, `OK` of a write, `BusError` of either. -/
inductive Response where
  | data (d : Data)
  | writeOk
  | busError
deriving DecidableEq, Repr

/-- What can happen to the block next (R10, R140). -/
inductive Event where
  /-- the Host agent performs one access -/
  | access (a : Access)
  /-- the hash engine takes its step: it answers the outstanding request, or delivers nothing (R105) -/
  | engine
  /-- a response to a request that a reset has abandoned arrives late (R106, R141) -/
  | lateResponse (d : Bytes32)
  /-- the reset input (R140) -/
  | reset
deriving DecidableEq, Repr

/-- `KD_STATE` (R32). -/
inductive KdState where
  | idle | wait1 | wait2
deriving DecidableEq, Repr

/-- The storage behind the KEY, DIGEST and MSG windows, one cell per window OFFSET (R17): addresses strictly rising, no
cell equal to what an unlisted offset reads as (`0x00`, R41 and R43; `Memory.wf` in Machine/Ops.lean). -/
structure Memory where
  cells : List Host.Cell
deriving DecidableEq, Repr

/-- Why a step stops with a fault. -/
inductive Fault where
  /-- STATUS.ERR holds a reserved code 4..15, which nothing writes (R38, 93_implementation_defined.md U10: "a model that
  sees one has a bug (fault)"). Raised by `deliver` for every event but reset. Safe: no run from reset meets it. -/
  | reservedErrCode
deriving DecidableEq, Repr

/-- Why a step refuses. -/
inductive Refusal where
  /-- An instruction without a meaning. No arm of `exec` raises it. Safe. -/
  | notModelled (mnemonic : String)
  /-- An answer to an abandoned request arrives while a NEW request is outstanding: the platform broke its reset duty,
  which is outside the spec (R141, 93_implementation_defined.md U12 "refuse"). Raised by `takeLateResponse`. Safe. -/
  | platformBrokeResetDuty
deriving DecidableEq, Repr

/-- The state. The first nine fields are the spec's; the last three are the model's own: what drives the block and what
the host and the hash engine have seen of it (R11). -/
structure State where
  /-- CTRL (R21): bit 0 is T255FIX -/
  ctrl : Word
  /-- STATUS (R22): BUSY, DONE, WIGN, ERR -/
  status : Word
  /-- CRC_ACC (R24) -/
  crcAcc : Word
  /-- KD_MLEN (R26) -/
  kdMlen : Word
  /-- KD_KLEN (R27) -/
  kdKlen : Word
  /-- KEY, DIGEST and MSG (R28, R29, R30) at their window offsets -/
  mem : Memory
  /-- KD_STATE (R32) -/
  kdState : KdState
  /-- H1 (R33) -/
  h1 : Bytes32
  /-- PEND (R35): the outstanding hash request -/
  pend : Option ByteString
  /-- The model's own: the events still to come, next one first (log entry 1). -/
  inputs : List Event
  /-- The model's own: the responses the host has received, latest first (R11, log entry 5). -/
  responses : List Response
  /-- The model's own: the hash requests issued, latest first (R11, log entry 5). -/
  requests : List ByteString
deriving DecidableEq, Repr

/-- Memory with nothing listed: every byte reads `0x00` (R41, R43). -/
def Memory.empty : Memory := ⟨[]⟩

/-- The machine right after reset (R41); no event is to come and nothing has been observed. -/
def State.reset : State where
  ctrl := 0x00000000
  status := 0x00000000
  crcAcc := 0xFFFFFFFF
  kdMlen := 0x00000000
  kdKlen := 0x00000020
  mem := Memory.empty
  kdState := .idle
  h1 := Vector.replicate 32 0
  pend := none
  inputs := []
  responses := []
  requests := []

/-! The state's updates, one per field. -/

def State.setCtrl (s : State) (v : Word) : State := { s with ctrl := v }
def State.setStatus (s : State) (v : Word) : State := { s with status := v }
def State.setCrcAcc (s : State) (v : Word) : State := { s with crcAcc := v }
def State.setKdMlen (s : State) (v : Word) : State := { s with kdMlen := v }
def State.setKdKlen (s : State) (v : Word) : State := { s with kdKlen := v }
def State.setMem (s : State) (m : Memory) : State := { s with mem := m }
def State.setKdState (s : State) (k : KdState) : State := { s with kdState := k }
def State.setH1 (s : State) (d : Bytes32) : State := { s with h1 := d }
def State.setPend (s : State) (p : Option ByteString) : State := { s with pend := p }
def State.setInputs (s : State) (es : List Event) : State := { s with inputs := es }
def State.setResponses (s : State) (rs : List Response) : State := { s with responses := rs }
def State.setRequests (s : State) (ms : List ByteString) : State := { s with requests := ms }

end Sys2Proof.Machine
end

