-- ==== Sys2Proof/Machine/Flags.lean ====
section
/-! DEFINITION. The fields of CTRL and STATUS (spec/10_state.md R18, R21, R22, R38) and every way a flag is written
(R40). -/

namespace Sys2Proof.Machine

/-- Bit `i` of a register set to `b`, the other bits kept. -/
def setBit (w : Word) (i : Nat) (b : Bool) : Word :=
  if b then w ||| BitVec.twoPow 32 i else w &&& ~~~BitVec.twoPow 32 i

/-- Bits [7:4] of STATUS set to `e`, the other bits kept. -/
def setErrField (w : Word) (e : BitVec 4) : Word := (w &&& 0xFFFFFF0F#32) ||| (e.setWidth 32 <<< 4)

/-- The defined bits of CTRL: T255FIX (R21). -/
def ctrlMask : Word := 0x00000001

/-- The defined bits of STATUS: BUSY, DONE, WIGN and ERR (R22). -/
def statusMask : Word := 0x000000F7

/-- CTRL as it is read: the reserved bits are 0 (R18). -/
def State.ctrlWord (s : State) : Word := s.ctrl &&& ctrlMask

/-- STATUS as it is read: the reserved bits are 0 (R18). -/
def State.statusWord (s : State) : Word := s.status &&& statusMask

/-- CTRL.T255FIX (R21). -/
def State.t255fix (s : State) : Bool := s.ctrl.getLsbD 0

/-- STATUS.BUSY (R22). -/
def State.busy (s : State) : Bool := s.status.getLsbD 0

/-- STATUS.DONE (R22). -/
def State.done (s : State) : Bool := s.status.getLsbD 1

/-- STATUS.WIGN (R22, R39). -/
def State.wign (s : State) : Bool := s.status.getLsbD 2

/-- STATUS.ERR (R22, R38). -/
def State.err (s : State) : BitVec 4 := s.status.extractLsb' 4 4

def State.setBusy (s : State) (b : Bool) : State := s.setStatus (setBit s.status 0 b)
def State.setDone (s : State) (b : Bool) : State := s.setStatus (setBit s.status 1 b)
def State.setWign (s : State) (b : Bool) : State := s.setStatus (setBit s.status 2 b)
def State.setErr (s : State) (e : BitVec 4) : State := s.setStatus (setErrField s.status e)

/-- The command errors of R38 and R124. -/
inductive CommandError where
  | lengthExceeded | invalidKeyLength | illegalCommand
deriving DecidableEq, Repr

/-- `code(E)` of R125 (R38). -/
def CommandError.code : CommandError → BitVec 4
  | .lengthExceeded => 1
  | .invalidKeyLength => 2
  | .illegalCommand => 3

/-- ERR holds one of the reserved codes 4..15 (R38). -/
def State.errReserved (s : State) : Bool := decide (3 < s.err.toNat)

end Sys2Proof.Machine
end

