-- ==== Sys2Proof/Machine/Operands.lean ====
section
/-! DEFINITION. The operand forms: the byte of CRC_BYTE where it meets the accumulator (spec/30_encoding.md R76), and the
n-byte values of a host access with their byte order (spec/20_memory.md R47, R53). -/

namespace Sys2Proof.Machine

/-- `zext_32(b)` (R12, R76). -/
def zext32 (b : Byte) : Word := b.setWidth 32

/-- How many bytes an access moves (R50). -/
def Size.bytes : Size → Nat
  | .one => 1
  | .two => 2
  | .four => 4

/-- The size of a value on the bus. -/
def Data.size : Data → Size
  | .b1 _ => .one
  | .b2 _ => .two
  | .b4 _ => .four

/-- The value of a write as a register takes it. Registers take 4-byte values only (R56); a narrower value is
zero-extended and meets no register. -/
def Data.word : Data → Word
  | .b1 v => v.setWidth 32
  | .b2 v => v.setWidth 32
  | .b4 v => v

/-- The bytes of an n-byte value, lowest offset first: byte `k` is bits `[8k+7:8k]` (R47). -/
def Data.bytes : Data → List Byte
  | .b1 v => [v]
  | .b2 v => [v.extractLsb' 0 8, v.extractLsb' 8 8]
  | .b4 v => [v.extractLsb' 0 8, v.extractLsb' 8 8, v.extractLsb' 16 8, v.extractLsb' 24 8]

/-- The n-byte value at bit `lo` of a word: bits `[lo + 8n - 1 : lo]` (R54, the TABLE line). -/
def dataAt (w : Word) (lo : Nat) : Size → Data
  | .one => .b1 (w.extractLsb' lo 8)
  | .two => .b2 (w.extractLsb' lo 16)
  | .four => .b4 (w.extractLsb' lo 32)

end Sys2Proof.Machine
end

