-- ==== Sys2Proof/Machine/Ops.lean ====
section
/-! DEFINITION. The shared operations: the byte storage and its canonical form, the register map (spec/10_state.md R17),
which accesses are answered BusError (spec/20_memory.md R56 to R58), the lock (R62), the responses, raising a command
error (spec/60_exceptions.md R125) and acknowledging one (R132).
NSC-INTEG takes no exception in the processor's sense: no register saves anything and nothing transfers control (R130).
`raise` is what stands in its place, and `acknowledge` is the return beside it (R132). -/

namespace Sys2Proof.Machine

/-! ## Byte storage -/

/-- What an unlisted offset reads as: the reset contents `0x00` (R41, R43). -/
def unlistedByte : Byte := 0x00

/-- The byte the cells give an offset. -/
def cellsRead : List Host.Cell → Nat → Byte
  | [], _ => unlistedByte
  | (k, v) :: cs, a => if a = k then v else cellsRead cs a

/-- The cells with one byte stored, their canonical form kept. -/
def cellsWrite : List Host.Cell → Nat → Byte → List Host.Cell
  | [], a, b => if b = unlistedByte then [] else [(a, b)]
  | (k, v) :: cs, a, b =>
    if a < k then (if b = unlistedByte then (k, v) :: cs else (a, b) :: (k, v) :: cs)
    else if a = k then (if b = unlistedByte then cs else (a, b) :: cs)
    else (k, v) :: cellsWrite cs a b

/-- The canonical form: offsets strictly rising, no cell equal to what an unlisted offset reads as. -/
def cellsWf : List Host.Cell → Bool
  | [] => true
  | (k, v) :: cs => v != unlistedByte && cs.all (fun c => decide (k < c.1)) && cellsWf cs

/-- The canonical form of the storage. -/
def Memory.wf (m : Memory) : Bool := cellsWf m.cells

/-- The byte at a window offset. -/
def Memory.read (m : Memory) (a : Nat) : Byte := cellsRead m.cells a

/-- The storage with one byte stored. -/
def Memory.write (m : Memory) (a : Nat) (b : Byte) : Memory := ⟨cellsWrite m.cells a b⟩

/-- The storage with bytes stored from offset `a` up, in order. -/
def Memory.writeBytes (m : Memory) (a : Nat) : List Byte → Memory
  | [] => m
  | b :: bs => (m.write a b).writeBytes (a + 1) bs

/-- The `n` bytes from offset `a` up, lowest offset first. -/
def Memory.bytesAt (m : Memory) (a n : Nat) : ByteString := (List.range n).map (fun i => m.read (a + i))

/-- The n-byte value at offset `a`, little-endian: the sum of `byte k << 8k` of R54 (R47). -/
def Memory.readData (m : Memory) (a : Nat) : Size → Data
  | .one => .b1 (m.read a)
  | .two => .b2 (m.read (a + 1) ++ m.read a)
  | .four => .b4 (m.read (a + 3) ++ m.read (a + 2) ++ m.read (a + 1) ++ m.read a)

/-! ## The register map (R17) -/

/-- The registers and windows of R17. -/
inductive Place where
  | id | ctrl | status | cmd | crcAcc | crcResult | kdMlen | kdKlen
  | key | digest | msg | table
  | reserved
deriving DecidableEq, Repr

/-- The offset of KEY (R28). -/
def keyBase : Nat := 0x100
/-- The offset of DIGEST (R30). -/
def digestBase : Nat := 0x140
/-- The offset of MSG (R29). -/
def msgBase : Nat := 0x200
/-- The offset of TABLE (R31). -/
def tableBase : Nat := 0x400
/-- The offset of CMD (R23). -/
def cmdOffset : BitVec 11 := 0x00C

/-- The constant of the ID register (R20). -/
def idValue : Word := 0x4E534331

/-- The register of word `r` of the register block `0x000`..`0x01F` (R17). -/
def registerAt : Nat → Place
  | 0 => .id
  | 1 => .ctrl
  | 2 => .status
  | 3 => .cmd
  | 4 => .crcAcc
  | 5 => .crcResult
  | 6 => .kdMlen
  | 7 => .kdKlen
  | _ => .reserved

/-- The window that holds a byte offset from `0x020` up (R17); the reserved ranges are those of R58. -/
def windowAt (a : Nat) : Place :=
  if a < 0x100 then .reserved
  else if a < 0x120 then .key
  else if a < 0x140 then .reserved
  else if a < 0x160 then .digest
  else if a < 0x200 then .reserved
  else if a < 0x300 then .msg
  else if a < 0x400 then .reserved
  else .table

/-- The register or window that holds a byte offset (R17). -/
def place (off : BitVec 11) : Place :=
  if off.toNat < 0x020 then registerAt (off.toNat / 4) else windowAt off.toNat

/-- `off mod n = 0` (R51). -/
def aligned (off : BitVec 11) (n : Size) : Bool := off.toNat % n.bytes == 0

/-- The offset is a register's (R50). -/
def isRegister (off : BitVec 11) : Bool := decide (off.toNat < 0x020)

/-- The accesses answered BusError: misaligned (R57), first byte in a reserved range (R58), or a 1- or 2-byte access to a
register (R56). The three tests stand in the order of R54, R55 and R127. -/
def busFault (off : BitVec 11) (n : Size) : Bool :=
  if !aligned off n then true
  else if place off = .reserved then true
  else if isRegister off && n != .four then true
  else false

/-- The address decoding of R52: the offset of a bus address `addr` in the window at `base`, when the whole access lies
inside it; an address outside never reaches the block. `base` is the OPEN parameter `BASE` (R8; log entry 4).
DESIGN CHOICE (log entry 19): a misaligned access that starts in the window and runs past its end is not accepted (R52) and
gets no response; the same access given by its OFFSET, as an event, is answered BusError (R57). -/
def windowOffset (base addr : Nat) (n : Size) : Option (BitVec 11) :=
  if base ≤ addr ∧ addr - base + n.bytes ≤ Config.windowSize then some (BitVec.ofNat 11 (addr - base)) else none

/-! ## Buffers -/

/-- `BUF.KEY[0..32)` (R28). -/
def State.key (s : State) : ByteString := s.mem.bytesAt keyBase Config.keySize

/-- `BUF.MSG[0..n)` (R29). -/
def State.msg (s : State) (n : Nat) : ByteString := s.mem.bytesAt msgBase n

/-- `BUF.DIGEST[0..32)` (R30). -/
def State.digest (s : State) : ByteString := s.mem.bytesAt digestBase Config.digestSize

/-! ## Responses, the lock, errors -/

/-- `respond …` of R13: the response of the current access reaches the host. -/
def State.respond (s : State) (r : Response) : State := s.setResponses (r :: s.responses)

/-- The lock of R62: while BUSY the write is discarded and WIGN is set, else the state is the one with the write done. -/
def State.unlessLocked (s written : State) : State := if s.busy then s.setWign true else written

/-- `raise E` (R125): ERR becomes the code of `E`, whatever it was, and nothing else changes. -/
def State.raise (s : State) (e : CommandError) : State := s.setErr e.code

/-- How the host acknowledges errors and completion (R132): DONE, WIGN and ERR become 0 and BUSY stays (R117). -/
def State.acknowledge (s : State) : State := ((s.setDone false).setWign false).setErr 0

/-- `issue HashReq(m)`, `PEND <- m` (R35, R104): the request goes out on the hash port and is outstanding. -/
def State.issue (s : State) (m : ByteString) : State := (s.setRequests (m :: s.requests)).setPend (some m)

end Sys2Proof.Machine
end

