-- ==== Sys2Proof/Machine/Control.lean ====
section
/-! DEFINITION. The control commands NOP and STAT_CLR (spec/42_control.md). -/

namespace Sys2Proof.Machine

/-- NOP (R116). -/
def execNop (s : State) : Host.Outcome State Fault Refusal := .next s

/-- STAT_CLR (R117). -/
def execStatClr (s : State) : Host.Outcome State Fault Refusal := .next s.acknowledge

end Sys2Proof.Machine
end

