-- ==== Sys2Proof/Machine/Crc.lean ====
section
/-! DEFINITION. The ChainedCRC32 unit (spec/40_crc32.md): the table, the fold, and the commands CRC_INIT and CRC_BYTE. -/

namespace Sys2Proof.Machine

/-- `POLY` (R6): the reflected CRC-32 polynomial. -/
def poly : Word := 0xEDB88320

/-- One of the 8 rounds of `entry` (R82). -/
def crcRound (c : Word) : Word := if c.getLsbD 0 then (c >>> 1) ^^^ poly else c >>> 1

/-- `n` rounds. -/
def crcRounds : Nat → Word → Word
  | 0, c => c
  | n + 1, c => crcRounds n (crcRound c)

/-- `entry(b)` (R82): the running value starts at `b`. -/
def tableEntry (b : Byte) : Word := crcRounds 8 (zext32 b)

/-- `TABLE(i)` (R82): entry 255 is built only when T255FIX is set, and is 0 otherwise (`TABLE_BUILD_BOUND`, R6). -/
def table (t255fix : Bool) (i : Byte) : Word :=
  if i.toNat < 255 then tableEntry i else if t255fix then tableEntry i else 0

/-- The table index of a fold (R88): `(crc ^ zext_32(b)) & 0xFF`. -/
def crcIndex (crc : Word) (b : Byte) : Byte := ((crc ^^^ zext32 b) &&& 0xFF#32).setWidth 8

/-- One fold (R88): `(crc >> 8) ^ TABLE((crc ^ zext_32(b)) & 0xFF)`. -/
def crcFold (t255fix : Bool) (crc : Word) (b : Byte) : Word := (crc >>> 8) ^^^ table t255fix (crcIndex crc b)

/-- `fold(c, d)` (R90). -/
def fold (t255fix : Bool) : Word → ByteString → Word
  | c, [] => c
  | c, b :: rest => fold t255fix (crcFold t255fix c b) rest

/-- The source's `checksum(seed, d)` (R90). -/
def checksum (t255fix : Bool) (seed : Word) (d : ByteString) : Word := ~~~fold t255fix seed d

/-- CRC_RESULT (R25, R89). -/
def State.crcResult (s : State) : Word := ~~~s.crcAcc

/-- The value of an n-byte read of the TABLE window at `off` (R54, R95): entry `(off - 0x400) >> 2`, from byte
`(off - 0x400) & 3` up. -/
def tableData (t255fix : Bool) (off : Nat) (n : Size) : Data :=
  dataAt (table t255fix (BitVec.ofNat 8 ((off - tableBase) / 4))) (8 * ((off - tableBase) % 4)) n

/-- CRC_INIT (R87). -/
def execCrcInit (s : State) : Host.Outcome State Fault Refusal := .next (s.setCrcAcc 0xFFFFFFFF)

/-- CRC_BYTE b (R88). -/
def execCrcByte (b : Byte) (s : State) : Host.Outcome State Fault Refusal :=
  .next (s.setCrcAcc (crcFold s.t255fix s.crcAcc b))

end Sys2Proof.Machine
end

