-- ==== Sys2Proof/Machine/KeyedDigest.lean ====
section
/-! DEFINITION. The KeyedDigest unit (spec/41_keyed_digest.md): the command KD_START, the two responses of the hash engine
that the KD sequencer accepts, and what the unit computes. -/

namespace Sys2Proof.Machine

/-- `S1 = BUF.KEY[0..32) ‖ BUF.MSG[0..MLEN)` (R34, R100). -/
def State.s1 (s : State) : ByteString := s.key ++ s.msg s.kdMlen.toNat

/-- `S2 = BUF.KEY[0..32) ‖ H1` (R34, R102). -/
def State.s2 (s : State) : ByteString := s.key ++ s.h1.toList

/-- `KD(k, m) = Hash(k ‖ Hash(k ‖ m))` (R107). -/
def keyedDigest (k m : ByteString) : Bytes32 := Config.hash (k ++ (Config.hash (k ++ m)).toList)

/-- Step 4 of KD_START (R100): the first hash request goes out. -/
def State.startDigest (s : State) : State := ((s.issue s.s1).setKdState .wait1).setBusy true

/-- An accepted KD_START (R97): clear DONE and ERR, check the message length, check the key length, start. -/
def State.acceptStart (s : State) : State :=
  let s := (s.setDone false).setErr 0
  if Config.maxMessageSize < s.kdMlen.toNat then s.raise .lengthExceeded
  else if s.kdKlen.toNat ≠ Config.keySize then s.raise .invalidKeyLength
  else s.startDigest

/-- KD_START (R96): discarded with WIGN set while BUSY, else accepted. -/
def execKdStart (s : State) : Host.Outcome State Fault Refusal := .next (s.unlessLocked s.acceptStart)

/-- The first response (R102): H1 takes it and the second request goes out. -/
def State.firstResponse (s : State) (d : Bytes32) : State :=
  let s := s.setH1 d
  (s.issue s.s2).setKdState .wait2

/-- The second response (R103): all 32 bytes of DIGEST, no request outstanding, BUSY 0 and DONE 1, in one step. -/
def State.secondResponse (s : State) (d : Bytes32) : State :=
  ((((s.setMem (s.mem.writeBytes digestBase d.toList)).setPend none).setKdState .idle).setBusy false).setDone true

/-- The KD sequencer meets `HashRsp(d)` (R102, R103); one that arrives while KD_STATE is IDLE is ignored (R106). -/
def State.hashResponse (s : State) (d : Bytes32) : State :=
  match s.kdState with
  | .idle => s
  | .wait1 => s.firstResponse d
  | .wait2 => s.secondResponse d

/-- The hash engine's one step (R105): it answers the outstanding request, and delivers nothing when there is none. -/
def State.engineStep (s : State) : State :=
  match s.pend with
  | none => s
  | some m => s.hashResponse (Config.hash m)

/-- The answer to an abandoned request (R106, R141): ignored when no request is outstanding; when one is, the platform has
broken its reset duty and the spec stops there (93_implementation_defined.md U12). -/
def takeLateResponse (_d : Bytes32) (s : State) : Host.Outcome State Fault Refusal :=
  match s.pend with
  | none => .next s
  | some _ => .refused .platformBrokeResetDuty

end Sys2Proof.Machine
end

