-- ==== Sys2Proof/Machine/Bus.lean ====
section
/-! DEFINITION. The host bus (spec/20_memory.md R53 to R55), the execution of a command word (spec/30_encoding.md R70), and
what each event does to the block (spec/00_scope.md R10). -/

namespace Sys2Proof.Machine

/-- `MemRead(off, n)` (R54): the value read, or none for BusError. -/
def memRead (off : BitVec 11) (n : Size) (s : State) : Option Data :=
  if busFault off n then none
  else
    match place off with
    | .reserved => none
    | .id => some (.b4 idValue)
    | .ctrl => some (.b4 s.ctrlWord)
    | .status => some (.b4 s.statusWord)
    | .cmd => some (.b4 0x00000000)
    | .crcAcc => some (.b4 s.crcAcc)
    | .crcResult => some (.b4 s.crcResult)
    | .kdMlen => some (.b4 s.kdMlen)
    | .kdKlen => some (.b4 s.kdKlen)
    | .key => some (s.mem.readData off.toNat n)
    | .digest => some (s.mem.readData off.toNat n)
    | .msg => some (s.mem.readData off.toNat n)
    | .table => some (tableData s.t255fix off.toNat n)

/-- The response of a read (R53): a BusError carries no data (R123). -/
def readResponse (off : BitVec 11) (n : Size) (s : State) : Response :=
  match memRead off n s with
  | some d => .data d
  | none => .busError

/-- Execution of a command word (R70): decode it (R78) and perform the command; a word that is no command raises
IllegalCommand (R74, R118). -/
def runCommand (w : Word) (s : State) : Host.Outcome State Fault Refusal :=
  match decode w with
  | .ok i => exec i s
  | .error _ => .next (s.raise .illegalCommand)

/-- A write that stores bytes in KEY or MSG (R47, R55). -/
def State.storeBytes (s : State) (off : BitVec 11) (d : Data) : State :=
  s.setMem (s.mem.writeBytes off.toNat d.bytes)

/-- `MemWrite(off, n, v)` after its BusError checks (R55). -/
def memWrite (off : BitVec 11) (d : Data) (s : State) : Host.Outcome State Fault Refusal :=
  match place off with
  | .reserved => .next s
  | .id => .next s
  | .status => .next s
  | .crcResult => .next s
  | .digest => .next s
  | .table => .next s
  | .ctrl => .next (s.setCtrl (d.word &&& ctrlMask))
  | .cmd => runCommand d.word s
  | .crcAcc => .next (s.setCrcAcc d.word)
  | .kdMlen => .next (s.unlessLocked (s.setKdMlen d.word))
  | .kdKlen => .next (s.unlessLocked (s.setKdKlen d.word))
  | .key => .next (s.unlessLocked (s.storeBytes off d))
  | .msg => .next (s.unlessLocked (s.storeBytes off d))

/-- One host access (R53): the BusError checks come first and a BusError changes no state (R123, R127); a read changes
no state (R54, R59); a write answers OK, a CMD write also when the command is illegal (R55). -/
def hostAccess (a : Access) (s : State) : Host.Outcome State Fault Refusal :=
  match a with
  | .read off n => .next (s.respond (readResponse off n s))
  | .write off d =>
    if busFault off d.size then .next (s.respond .busError)
    else memWrite off d (s.respond .writeOk)

/-- The reset event (R140): every state element takes its value of R41. What the host has observed so far and the events
still to come are no state of the block. -/
def State.resetEvent (s : State) : State :=
  ((State.reset.setInputs s.inputs).setResponses s.responses).setRequests s.requests

/-- An event other than reset, in a state whose ERR is legal. -/
def act (e : Event) (s : State) : Host.Outcome State Fault Refusal :=
  match e with
  | .access a => hostAccess a s
  | .engine => .next s.engineStep
  | .lateResponse d => takeLateResponse d s
  | .reset => .next s.resetEvent

/-- What an event does (R10, R140). A state that holds a reserved ERR code is a fault (93_implementation_defined.md U10);
reset is applied whatever the block was doing. -/
def deliver (e : Event) (s : State) : Host.Outcome State Fault Refusal :=
  if s.errReserved && e != .reset then .fault .reservedErrCode else act e s

/-- With no event to come the block waits and nothing changes: it has no step of its own (R138; log entry 2). -/
def waitForEvent (s : State) : Host.Outcome State Fault Refusal := .next s

/-- The CMD write that runs the command word `w` (R69). -/
def cmdWrite (w : Word) : Event := .access (.write cmdOffset (.b4 w))

/-- The access that a bus access to address `addr` becomes at the block, if it reaches the block (R52). -/
def busReadEvent (base addr : Nat) (n : Size) : Option Event :=
  (windowOffset base addr n).map (fun off => .access (.read off n))

/-- As `busReadEvent`, for a write. -/
def busWriteEvent (base addr : Nat) (d : Data) : Option Event :=
  (windowOffset base addr d.size).map (fun off => .access (.write off d))

end Sys2Proof.Machine
end

