-- ==== Sys2Proof/Machine/Step.lean ====
section
/-! DEFINITION. One step: the next event happens to the block. All steps of all agents form one total order
(spec/20_memory.md R64); which agent moves next is data, `State.inputs`, so a claim over all states covers every
interleaving (spec/60_exceptions.md R129). -/

namespace Sys2Proof.Machine

/-- One step of the block. -/
def step (s : State) : Host.Outcome State Fault Refusal :=
  match s.inputs with
  | [] => waitForEvent s
  | e :: rest => deliver e (s.setInputs rest)

/-- The command word `w` made the very next host access: a 4-byte write to CMD (R69). There is no instruction memory; a
program reaches the block as the host's accesses (log entry 11). -/
def State.withFetchWord (s : State) (nbits w : Nat) : State :=
  s.setInputs (cmdWrite (BitVec.ofNat 32 (w % 2 ^ nbits)) :: s.inputs)

end Sys2Proof.Machine
end

