-- ==== Sys2Proof/Machine/HostProgram.lean ====
section
/-! DEFINITION. The host-program notation of spec/30_encoding.md R79 and its pseudo-instructions (R80): which host accesses
each statement produces. Labels and branches are host control flow and no block access (R79), so they have no statement
here; host variables are the host's. -/

namespace Sys2Proof.Machine

/-- A statement of the notation (R79, R80); its numbers are as written, unchecked. -/
inductive HostStmt where
  | nop | crcInit | crcByte (b : Nat) | kdStart | statClr
  | cmd (w : Nat)
  | sw (off v : Nat) | sh (off v : Nat) | sb (off v : Nat)
  | lw (off : Nat) | lh (off : Nat) | lb (off : Nat)
  | crcSeed (v : Nat) | crcBytes (bs : List Nat) | crcResult
  | kdKey (ks : List Nat)
  | kdMsg (bs : List Nat)
  /-- the polling loop that ended after `again` further rounds -/
  | kdWait (again : Nat)
  | kdTag
deriving DecidableEq, Repr

/-- The number fits in a byte. -/
def fitsByte (n : Nat) : Bool := decide (n < 2 ^ 8)
/-- The number fits in two bytes. -/
def fitsHalf (n : Nat) : Bool := decide (n < 2 ^ 16)
/-- The number fits in a word. -/
def fitsWord (n : Nat) : Bool := decide (n < 2 ^ 32)
/-- The number is a window offset (R7). -/
def fitsOffset (n : Nat) : Bool := decide (n < Config.windowSize)

/-- Every number of the statement fits where it stands, a key has 32 bytes and a message at most 256 (R28, R29). -/
def HostStmt.wellFormed : HostStmt → Bool
  | .nop | .crcInit | .kdStart | .statClr | .crcResult | .kdWait _ | .kdTag => true
  | .crcByte b => fitsByte b
  | .cmd w => fitsWord w
  | .sw off v => fitsOffset off && fitsWord v
  | .sh off v => fitsOffset off && fitsHalf v
  | .sb off v => fitsOffset off && fitsByte v
  | .lw off | .lh off | .lb off => fitsOffset off
  | .crcSeed v => fitsWord v
  | .crcBytes bs => bs.all fitsByte
  | .kdKey ks => ks.length == Config.keySize && ks.all fitsByte
  | .kdMsg bs => decide (bs.length ≤ Config.maxMessageSize) && bs.all fitsByte

/-- The CMD write of a word (R79). -/
def cmdAccess (w : Word) : Access := .write cmdOffset (.b4 w)

/-- The word write of the `j`-th word of a key (R80, `kd.key`). -/
def keyWordAccess (ks : List Nat) (j : Nat) : Access :=
  .write (BitVec.ofNat 11 (keyBase + 4 * j))
    (.b4 (BitVec.ofNat 8 (ks.getD (4 * j + 3) 0) ++ BitVec.ofNat 8 (ks.getD (4 * j + 2) 0) ++
      BitVec.ofNat 8 (ks.getD (4 * j + 1) 0) ++ BitVec.ofNat 8 (ks.getD (4 * j) 0)))

/-- The byte writes that put a message into MSG from index `i` up (R80, `kd.msg`; log entry 10). -/
def msgByteAccesses : Nat → List Nat → List Access
  | _, [] => []
  | i, b :: bs => .write (BitVec.ofNat 11 (msgBase + i)) (.b1 (BitVec.ofNat 8 b)) :: msgByteAccesses (i + 1) bs

/-- The host accesses a statement produces, in order (R79, R80). -/
def HostStmt.accesses : HostStmt → List Access
  | .nop => [cmdAccess (encode .nop)]
  | .crcInit => [cmdAccess (encode .crcInit)]
  | .crcByte b => [cmdAccess (encode (.crcByte (BitVec.ofNat 8 b)))]
  | .kdStart => [cmdAccess (encode .kdStart)]
  | .statClr => [cmdAccess (encode .statClr)]
  | .cmd w => [cmdAccess (BitVec.ofNat 32 w)]
  | .sw off v => [.write (BitVec.ofNat 11 off) (.b4 (BitVec.ofNat 32 v))]
  | .sh off v => [.write (BitVec.ofNat 11 off) (.b2 (BitVec.ofNat 16 v))]
  | .sb off v => [.write (BitVec.ofNat 11 off) (.b1 (BitVec.ofNat 8 v))]
  | .lw off => [.read (BitVec.ofNat 11 off) .four]
  | .lh off => [.read (BitVec.ofNat 11 off) .two]
  | .lb off => [.read (BitVec.ofNat 11 off) .one]
  | .crcSeed v => [.write 0x010 (.b4 (BitVec.ofNat 32 v))]
  | .crcBytes bs => bs.map (fun b => cmdAccess (encode (.crcByte (BitVec.ofNat 8 b))))
  | .crcResult => [.read 0x014 .four]
  | .kdKey ks => (List.range 8).map (keyWordAccess ks)
  | .kdMsg bs => msgByteAccesses 0 bs ++ [.write 0x018 (.b4 (BitVec.ofNat 32 bs.length))]
  | .kdWait again => List.replicate (again + 1) (.read 0x008 .four)
  | .kdTag => (List.range 8).map (fun j => .read (BitVec.ofNat 11 (digestBase + 4 * j)) .four)

/-- The source's call `checksum(seed, data)` as a host program (40_crc32.md R90). -/
def checksumProgram (seed : Nat) (data : List Nat) : List HostStmt := [.crcSeed seed, .crcBytes data, .crcResult]

/-- The source's call `keyedDigest(key, message)` as a host program whose polling took `again` further rounds
(41_keyed_digest.md R114). -/
def keyedDigestProgram (key message : List Nat) (again : Nat) : List HostStmt :=
  [.kdKey key, .kdMsg message, .kdStart, .kdWait again, .kdTag]

/-- What the call returns, read off the last STATUS read (R114); nothing while BUSY, and where R114 names no result. -/
def callResult (status : Word) : Option (Except CommandError Unit) :=
  if status.getLsbD 0 then none
  else if status.extractLsb' 4 4 = 1 then some (.error .lengthExceeded)
  else if status.extractLsb' 4 4 = 2 then some (.error .invalidKeyLength)
  else if status.getLsbD 1 ∧ status.extractLsb' 4 4 = 0 then some (.ok ())
  else none

/-- The events of a host program that nothing comes between. -/
def programEvents (p : List HostStmt) : List Event := (p.flatMap HostStmt.accesses).map .access

end Sys2Proof.Machine
end

