-- ==== Sys2Proof/Safety.lean ====
section
/-! DEFINITION. The terms the claims are stated in: runs, the invariants of a safe state (spec/10_state.md R36 to R38,
spec/41_keyed_digest.md R104), kinds of events, and the two units' parts of the state (spec/20_memory.md R63). -/

namespace Sys2Proof.Machine

/-- `k` steps of the machine. -/
def run (k : Nat) (s : State) : Host.Outcome State Fault Refusal := Host.Core.run Sys2Proof.core k s

/-! ## Invariants -/

/-- The reserved bits of CTRL and STATUS are 0 (R18), and ERR holds no reserved code (R38). -/
abbrev State.fieldsLegal (s : State) : Prop :=
  s.ctrl &&& ~~~ctrlMask = 0 ∧ s.status &&& ~~~statusMask = 0 ∧ s.errReserved = false

/-- BUSY, KD_STATE and PEND agree, and PEND is the request that KD_STATE says (R36). -/
abbrev State.sequencerConsistent (s : State) : Prop :=
  (s.busy = true ↔ s.kdState ≠ .idle) ∧ (s.kdState ≠ .idle ↔ s.pend ≠ none) ∧
  (s.kdState = .wait1 → s.pend = some s.s1) ∧ (s.kdState = .wait2 → s.pend = some s.s2)

/-- DONE and BUSY are never both 1, and with either of them ERR is 0 or IllegalCommand (R37, R126). -/
abbrev State.completionConsistent (s : State) : Prop :=
  ¬(s.busy = true ∧ s.done = true) ∧ (s.busy = true ∨ s.done = true → s.err = 0 ∨ s.err = 3)

/-- While a digest runs the two lengths are those its checks passed (R98, R99, R62). -/
abbrev State.lengthsChecked (s : State) : Prop :=
  s.busy = true → s.kdMlen.toNat ≤ Config.maxMessageSize ∧ s.kdKlen.toNat = Config.keySize

/-- The offsets that have storage: KEY, DIGEST and MSG (R17). -/
def hasStorage (a : Nat) : Bool :=
  (decide (0x100 ≤ a) && decide (a < 0x120)) || (decide (0x140 ≤ a) && decide (a < 0x160)) ||
    (decide (0x200 ≤ a) && decide (a < 0x300))

/-- The storage is in its canonical form and lists only offsets that have storage. -/
abbrev State.storageLegal (s : State) : Prop :=
  s.mem.wf = true ∧ s.mem.cells.all (fun c => hasStorage c.1) = true

/-- Every request that went out has 32 to 288 bytes (R104). -/
abbrev State.portLegal (s : State) : Prop :=
  s.requests.all (fun m => decide (32 ≤ m.length) && decide (m.length ≤ 288)) = true

/-- All of the above: a safe state. -/
abbrev State.Inv (s : State) : Prop :=
  s.fieldsLegal ∧ s.sequencerConsistent ∧ s.completionConsistent ∧ s.lengthsChecked ∧ s.storageLegal ∧ s.portLegal

/-! ## Shapes of results -/

/-- The STATUS word `st` has these flags, and the reserved bits of the old word (R22). It fixes every bit of `st`. -/
def StatusIs (st : Word) (busy done wign : Bool) (err : BitVec 4) (old : Word) : Prop :=
  st.getLsbD 0 = busy ∧ st.getLsbD 1 = done ∧ st.getLsbD 2 = wign ∧ st.extractLsb' 4 4 = err ∧
    ∀ j, j = 3 ∨ 8 ≤ j → st.getLsbD j = old.getLsbD j

/-- An offset of one of the reserved ranges, written out from R58. -/
abbrev inReservedRange (a : Nat) : Prop :=
  (0x020 ≤ a ∧ a ≤ 0x0FF) ∨ (0x120 ≤ a ∧ a ≤ 0x13F) ∨ (0x160 ≤ a ∧ a ≤ 0x1FF) ∨ (0x300 ≤ a ∧ a ≤ 0x3FF)

/-- The three causes of BusError, written out from R122: misaligned, reserved offset, narrow register access. -/
abbrev accessRejected (off : BitVec 11) (n : Size) : Prop :=
  off.toNat % n.bytes ≠ 0 ∨ inReservedRange off.toNat ∨ (off.toNat < 0x020 ∧ n ≠ .four)

/-- The offset of an access. -/
def Access.off : Access → BitVec 11
  | .read off _ => off
  | .write off _ => off

/-- The size of an access. -/
def Access.size : Access → Size
  | .read _ n => n
  | .write _ d => d.size

/-- A locked location: KD_MLEN, KD_KLEN, KEY or MSG (R62). -/
abbrev isLockable (off : BitVec 11) : Prop :=
  off = 0x018 ∨ off = 0x01C ∨ (0x100 ≤ off.toNat ∧ off.toNat < 0x120) ∨ (0x200 ≤ off.toNat ∧ off.toNat < 0x300)

/-- The bytes of KEY followed by the first `n` bytes of MSG, read one by one (R34, R49). -/
def keyThenMessage (m : Memory) (n : Nat) : ByteString :=
  (List.range 32).map (fun i => m.read (0x100 + i)) ++ (List.range n).map (fun i => m.read (0x200 + i))

/-- The bytes of KEY followed by 32 bytes (R34, R49). -/
def keyThenDigest (m : Memory) (d : Bytes32) : ByteString :=
  (List.range 32).map (fun i => m.read (0x100 + i)) ++ d.toList

/-! ## Events -/

/-- A host access. -/
def Event.isAccess : Event → Bool
  | .access _ => true
  | _ => false

/-- A host access or a step of the hash engine: what a platform does that keeps its reset duty, between resets. -/
def Event.isOrdinary : Event → Bool
  | .access _ => true
  | .engine => true
  | _ => false

/-- A late answer to an abandoned request. -/
def Event.isLateResponse : Event → Bool
  | .lateResponse _ => true
  | _ => false

/-- The platform keeps its reset duty at the next step: no answer to an abandoned request is next while a request is
outstanding (70_reset_and_hazards.md R141, 93_implementation_defined.md U12; log entry 8). -/
abbrev State.resetDutyKept (s : State) : Prop := s.inputs.head?.any Event.isLateResponse = true → s.pend = none

/-- A write that changes CRC state (R42): of CRC_ACC or CTRL, or one of the two CRC commands. -/
def Event.writesCrc : Event → Bool
  | .access (.write off (.b4 v)) =>
    off == 0x004 || off == 0x010 ||
      (off == cmdOffset && (match decode v with
        | .ok .crcInit => true
        | .ok (.crcByte _) => true
        | _ => false))
  | _ => false

/-- A CRC operation (R63, R81): a write of CRC_ACC or CTRL, a CRC command, a read of CTRL, CRC_ACC or CRC_RESULT, or an
aligned read of the TABLE window. -/
def Event.isCrcOp : Event → Bool
  | .access (.read off n) =>
    (n == .four && (off == 0x004 || off == 0x010 || off == 0x014)) || (aligned off n && place off == .table)
  | e => e.writesCrc

/-- A KD operation (R63): a step of the hash engine, KD_START or STAT_CLR, or an access to STATUS, KD_MLEN, KD_KLEN, KEY,
DIGEST or MSG. -/
def Event.isKdOp : Event → Bool
  | .engine => true
  | .access (.read off _) => [Place.status, .kdMlen, .kdKlen, .key, .digest, .msg].contains (place off)
  | .access (.write off (.b4 v)) =>
    [Place.status, .kdMlen, .kdKlen, .key, .digest, .msg].contains (place off) ||
      (off == cmdOffset && (v == encode .kdStart || v == encode .statClr))
  | .access (.write off _) => [Place.status, .kdMlen, .kdKlen, .key, .digest, .msg].contains (place off)
  | _ => false

/-! ## The end of a run -/

/-- The run of the host's program has ended: the host has performed its last access and no digest is owed
(70_reset_and_hazards.md R154, R155). -/
abbrev State.runEnded (s : State) : Prop := s.inputs.all (fun e => !e.isAccess) = true ∧ s.kdState = .idle

/-- The observation at the end of a run (R154): the responses and the hash requests, oldest first. -/
def State.observation (s : State) : List Response × List ByteString := (s.responses.reverse, s.requests.reverse)

/-! ## The two units -/

/-- The state with the KD unit's part, STATUS among it, taken from another state (R63). -/
def State.withKdOf (s k : State) : State :=
  { s with status := k.status, kdMlen := k.kdMlen, kdKlen := k.kdKlen, mem := k.mem, kdState := k.kdState, h1 := k.h1,
           pend := k.pend, requests := k.requests }

/-- The state with the CRC unit's part taken from another state (R63). -/
def State.withCrcOf (s c : State) : State := { s with ctrl := c.ctrl, crcAcc := c.crcAcc }

/-! ## Bytes and sequences -/

/-- The CMD writes that fold the bytes of a string (R80, `crc.bytes`). -/
def foldEvents (d : ByteString) : List Event := d.map (fun b => cmdWrite (encode (.crcByte b)))

/-- The seed write (R86). -/
def seedWrite (v : Word) : Event := .access (.write 0x010 (.b4 v))

/-- The CRC_RESULT read (R89). -/
def resultRead : Event := .access (.read 0x014 .four)

/-- The STATUS read. -/
def statusRead : Event := .access (.read 0x008 .four)

end Sys2Proof.Machine
end

