-- ==== Sys2Proof/Certificates/Slice0/Obligations.lean ====
section
/-! DEFINITION. The statements for the provers. Each docstring says which rule of the spec it formalises. A hypothesis
`s.errReserved = false` rules out the states whose ERR is a reserved code 4..15, which no run reaches
(`Obligations.ReservedFieldsStayLegal`). -/

open Sys2Proof Sys2Proof.Machine

/-! ## Reset -/

/-- R41: the state after reset, element by element. -/
def Obligations.ResetLeavesSpecValues : Prop :=
  memRead 0x000 .four State.reset = some (.b4 0x4E534331) ∧
  State.reset.ctrl = 0x00000000 ∧ State.reset.status = 0x00000000 ∧
  State.reset.crcAcc = 0xFFFFFFFF ∧ memRead 0x014 .four State.reset = some (.b4 0x00000000) ∧
  State.reset.kdMlen = 0x00000000 ∧ State.reset.kdKlen = 0x00000020 ∧
  (∀ i, i < 32 → State.reset.mem.read (0x100 + i) = 0x00) ∧ (∀ i, i < 256 → State.reset.mem.read (0x200 + i) = 0x00) ∧
  (∀ i, i < 32 → State.reset.mem.read (0x140 + i) = 0x00) ∧ State.reset.h1.toList = List.replicate 32 0x00 ∧
  State.reset.kdState = .idle ∧ State.reset.pend = none

/-- R140: the reset event, in any state whatever. After it the block is consistent and accepts any host access. No host
access is performed in the step: the model's lists of what was observed (log entry 5) stay. -/
def Obligations.ResetEventRestoresEveryElement : Prop :=
  ∀ (s : State) (rest : List Event), s.inputs = .reset :: rest →
    ∃ t, step s = .next t ∧ t.ctrl = 0x00000000 ∧ t.status = 0x00000000 ∧ t.crcAcc = 0xFFFFFFFF ∧
      t.kdMlen = 0x00000000 ∧ t.kdKlen = 0x00000020 ∧ (∀ a, t.mem.read a = 0x00) ∧
      t.h1.toList = List.replicate 32 0x00 ∧ t.kdState = .idle ∧ t.pend = none ∧
      t.responses = s.responses ∧ t.requests = s.requests ∧ t.inputs = rest ∧
      t.busy = false ∧ t.sequencerConsistent ∧ t.completionConsistent ∧
      ∀ (a : Access) (rest' : List Event), rest = .access a :: rest' → ∃ u r, step t = .next u ∧ u.responses = r :: t.responses

/-! ## Commands and their words -/

/-- R70, R78: a CMD write of a command word is that command, run in the step of the write, which answers OK. -/
def Obligations.StepRunsDecodedCommand : Prop :=
  ∀ (s : State) (w : Word) (i : Instr) (rest : List Event), s.errReserved = false →
    s.inputs = .access (.write 0x00C (.b4 w)) :: rest → decode w = .ok i →
    step s = exec i { s with inputs := rest, responses := .writeOk :: s.responses }

/-- R72: the word of each command, written out bit by bit, and three illegal neighbours of NOP, CRC_BYTE and KD_START. -/
def Obligations.SampleWordsDecode : Prop :=
  decode 0b00000000000000000000000000000000 = .ok .nop ∧
  decode 0b00000001000000000000000000000000 = .ok .crcInit ∧
  decode 0b00000010000000000000000010100101 = .ok (.crcByte 0xA5) ∧
  decode 0b00010000000000000000000000000000 = .ok .kdStart ∧
  decode 0b00100000000000000000000000000000 = .ok .statClr ∧
  decode 0b00000000000000000000000000000001 = .error .illegal ∧
  decode 0b00000010000000000000000100000000 = .error .illegal ∧
  decode 0b00010000000000000000000000000001 = .error .illegal

/-- R72: the rows with their matches and masks; a word selects at most one row, and it decodes to an instruction of a row
exactly when it selects that row. -/
def Obligations.DecodeFollowsOpcodeTable : Prop :=
  opcodeRows.map (fun r => (r.mnemonic, r.pattern, r.mask)) =
    [("NOP", 0x00000000, 0xFFFFFFFF), ("CRC_INIT", 0x01000000, 0xFFFFFFFF), ("CRC_BYTE", 0x02000000, 0xFFFFFF00),
     ("KD_START", 0x10000000, 0xFFFFFFFF), ("STAT_CLR", 0x20000000, 0xFFFFFFFF)] ∧
  (∀ (w : Word) (r r' : OpcodeRow), r ∈ opcodeRows → r' ∈ opcodeRows → w &&& r.mask = r.pattern →
    w &&& r'.mask = r'.pattern → r = r') ∧
  ∀ (w : Word) (r : OpcodeRow), r ∈ opcodeRows →
    (w &&& r.mask = r.pattern ↔ ∃ i, decode w = .ok i ∧ i.mnemonic = r.mnemonic)

/-- 30_encoding.md sections 2 to 4: decoding the word of an instruction gives it back, CRC_BYTE at every byte. -/
def Obligations.DecodeEncodeAgree : Prop := ∀ i : Instr, decode (encode i) = .ok i

/-- 30_encoding.md sections 2 to 4: a word that decodes is the word of its instruction; each command has one word. -/
def Obligations.EncodeDecodeAgree : Prop := ∀ (w : Word) (i : Instr), decode w = .ok i → encode i = w

/-- R73: the words that are commands are those whose OP is listed, whose RSV is zero, and whose IMM8 is zero unless OP is
CRC_BYTE's. -/
def Obligations.ReservedBitsMustBeZero : Prop :=
  ∀ w : Word, (∃ i, decode w = .ok i) ↔
    (w.extractLsb' 24 8 ∈ [0x00#8, 0x01#8, 0x02#8, 0x10#8, 0x20#8] ∧ w.extractLsb' 8 16 = 0x0000#16 ∧
      (w.extractLsb' 24 8 ≠ 0x02#8 → w.extractLsb' 0 8 = 0x00#8))

/-- 30_encoding.md section 3: 260 words are commands and no other word is. -/
def Obligations.LegalWordCount : Prop :=
  ∃ ws : List Word, ws.length = 260 ∧ ws.Nodup ∧ ∀ w : Word, w ∈ ws ↔ ∃ i, decode w = .ok i

/-- R118: a CMD write of a word that is no command's sets ERR to 3 and does nothing else, BUSY or not; it answers OK. -/
def Obligations.IllegalWordRaisesIllegalCommand : Prop :=
  ∀ (s : State) (w : Word) (rest : List Event), s.errReserved = false → s.inputs = cmdWrite w :: rest →
    (∀ i, encode i ≠ w) →
    ∃ st, step s = .next { s with inputs := rest, responses := .writeOk :: s.responses, status := st } ∧
      StatusIs st s.busy s.done s.wign 3 s.status

/-- R116: NOP leaves every register and buffer as it was, BUSY or not; its neighbours `0x00000001` and `0x00000100` are
illegal. -/
def Obligations.NopLeavesEverything : Prop :=
  (∀ s : State, exec .nop s = .next s) ∧ decode 0x00000000 = .ok .nop ∧ decode 0x00000001 = .error .illegal ∧
  decode 0x00000100 = .error .illegal

/-- R87: CRC_INIT sets CRC_ACC and nothing else, whatever BUSY is; its effect is that of a seed write of `0xFFFFFFFF`, and
CRC_RESULT then reads 0. -/
def Obligations.CrcInitSetsAccumulator : Prop :=
  decode 0x01000000 = .ok .crcInit ∧
  (∀ s : State, exec .crcInit s = .next { s with crcAcc := 0xFFFFFFFF } ∧
    memRead 0x014 .four { s with crcAcc := 0xFFFFFFFF } = some (.b4 0x00000000)) ∧
  ∀ (s : State) (rest : List Event), s.errReserved = false →
    step { s with inputs := cmdWrite 0x01000000 :: rest } = step { s with inputs := seedWrite 0xFFFFFFFF :: rest }

/-- R88: CRC_BYTE folds one byte into CRC_ACC and changes nothing else, whatever BUSY is; the index is `crc[7:0] ^ b`, and
the top byte of the result is that of the table entry. -/
def Obligations.CrcByteFoldsOneByte : Prop :=
  (∀ b : Byte, decode (0x02000000#32 ||| b.setWidth 32) = .ok (.crcByte b)) ∧
  ∀ (b : Byte) (s : State),
    exec (.crcByte b) s = .next { s with
      crcAcc := (s.crcAcc >>> 8) ^^^ table s.t255fix (((s.crcAcc ^^^ b.setWidth 32) &&& 0xFF#32).setWidth 8) } ∧
    ((s.crcAcc ^^^ b.setWidth 32) &&& 0xFF#32).setWidth 8 = s.crcAcc.extractLsb' 0 8 ^^^ b ∧
    ∀ t, exec (.crcByte b) s = .next t →
      t.crcAcc.extractLsb' 24 8 = (table s.t255fix (s.crcAcc.extractLsb' 0 8 ^^^ b)).extractLsb' 24 8

/-- R117: STAT_CLR clears DONE, WIGN and ERR, keeps BUSY, and changes nothing else, so that a running digest goes on. -/
def Obligations.StatClrClearsFlags : Prop :=
  decode 0x20000000 = .ok .statClr ∧
  ∀ s : State, ∃ st, exec .statClr s = .next { s with status := st } ∧ StatusIs st s.busy false false 0 s.status

/-- The frame of the five commands, one by one (10_state.md R40, R42): which registers, flags and bytes each leaves
unchanged when it gives a next state. No command stores to the window. -/
def Obligations.CommandFrames : Prop :=
  ∀ (i : Instr) (s t : State), exec i s = .next t →
    t.ctrl = s.ctrl ∧ t.kdMlen = s.kdMlen ∧ t.kdKlen = s.kdKlen ∧ t.h1 = s.h1 ∧
    (∀ a, t.mem.read a = s.mem.read a) ∧ t.inputs = s.inputs ∧ t.responses = s.responses ∧
    (∀ j, j = 3 ∨ 8 ≤ j → t.status.getLsbD j = s.status.getLsbD j) ∧
    (i = .nop ∨ i = .kdStart ∨ i = .statClr → t.crcAcc = s.crcAcc) ∧
    (i = .nop ∨ i = .crcInit ∨ (∃ b, i = .crcByte b) → t.status = s.status) ∧
    (i ≠ .kdStart → t.kdState = s.kdState ∧ t.pend = s.pend ∧ t.requests = s.requests ∧ t.busy = s.busy) ∧
    (i = .kdStart → s.busy = false → t.wign = s.wign) ∧
    (i = .kdStart → s.busy = true → t.busy = s.busy ∧ t.done = s.done ∧ t.err = s.err ∧ t.kdState = s.kdState ∧
      t.pend = s.pend ∧ t.requests = s.requests)

/-! ## The CRC unit -/

/-- R82: the table is the per-byte build for entries 0..254; entry 255 is 0 with T255FIX = 0 and `0x2D02EF8D`, the value
of the build, with T255FIX = 1. -/
def Obligations.TableFollowsBuild : Prop :=
  (∀ (fix : Bool) (i : Byte), i.toNat ≤ 254 →
    table fix i = (List.range 8).foldl
      (fun c _ => if c &&& 1#32 = 1#32 then (c >>> 1) ^^^ 0xEDB88320#32 else c >>> 1) (i.setWidth 32)) ∧
  table false 255 = 0x00000000 ∧ table true 255 = 0x2D02EF8D ∧
  (List.range 8).foldl (fun c _ => if c &&& 1#32 = 1#32 then (c >>> 1) ^^^ 0xEDB88320#32 else c >>> 1) (255#32) =
    0x2D02EF8D

/-- 40_crc32.md section 1: the full table is linear over exclusive-or, as a table of polynomial remainders is; the
reference table is not, because of entry 255. -/
def Obligations.FullTableIsLinear : Prop :=
  (∀ a b : Byte, table true (a ^^^ b) = table true a ^^^ table true b) ∧
  ¬ ∀ a b : Byte, table false (a ^^^ b) = table false a ^^^ table false b

/-- R84: the defect changes a fold exactly when the index `crc[7:0] ^ b` is `0xFF`; then the reference table gives
`crc >> 8` where the full one gives `(crc >> 8) ^ 0x2D02EF8D`; an input byte `0xFF` is affected only when the low byte of
the accumulator is `0x00`, an input byte `0x00` when it is `0xFF`. -/
def Obligations.DefectChangesExactlyIndex255 : Prop :=
  ∀ (b : Byte) (s : State), ∃ ref full,
    exec (.crcByte b) { s with ctrl := 0 } = .next ref ∧ exec (.crcByte b) { s with ctrl := 1 } = .next full ∧
    (ref.crcAcc ≠ full.crcAcc ↔ s.crcAcc.extractLsb' 0 8 ^^^ b = 0xFF#8) ∧
    (ref.crcAcc ≠ full.crcAcc ↔ b = s.crcAcc.extractLsb' 0 8 ^^^ 0xFF#8) ∧
    (s.crcAcc.extractLsb' 0 8 ^^^ b = 0xFF#8 →
      ref.crcAcc = s.crcAcc >>> 8 ∧ full.crcAcc = (s.crcAcc >>> 8) ^^^ 0x2D02EF8D#32) ∧
    (b = 0xFF → (ref.crcAcc ≠ full.crcAcc ↔ s.crcAcc.extractLsb' 0 8 = 0x00#8)) ∧
    (b = 0x00 → (ref.crcAcc ≠ full.crcAcc ↔ s.crcAcc.extractLsb' 0 8 = 0xFF#8))

/-- R90: a seed write, the folds of the bytes `d` and a CRC_RESULT read give `checksum(seed, d)`, for every seed and
length, whatever other host accesses and hash-engine steps come between them, as long as none of those writes CRC state. -/
def Obligations.ChecksumSequence : Prop :=
  ∀ (s : State) (seed : Word) (d : ByteString) (es rest : List Event), s.errReserved = false →
    es.all Event.isOrdinary = true → es.filter Event.writesCrc = foldEvents d →
    s.inputs = seedWrite seed :: (es ++ resultRead :: rest) →
    ∃ t rs, run (es.length + 2) s = .next t ∧ t.inputs = rest ∧ t.crcAcc = fold s.t255fix seed d ∧
      t.responses = .data (.b4 (~~~fold s.t255fix seed d)) :: rs

/-- R92: reference chaining. Writing the complemented result back as the next seed gives
`~fold(~fold(seed, d1), d2)`, which is not in general the checksum of the concatenation. -/
def Obligations.ReferenceChaining : Prop :=
  (∀ (s : State) (seed : Word) (d1 d2 : ByteString) (rest : List Event), s.errReserved = false →
    s.inputs = seedWrite seed :: (foldEvents d1 ++ resultRead :: seedWrite (checksum s.t255fix seed d1) ::
      (foldEvents d2 ++ resultRead :: rest)) →
    ∃ t rs, run (d1.length + d2.length + 4) s = .next t ∧ t.inputs = rest ∧
      t.responses = .data (.b4 (~~~fold s.t255fix (~~~fold s.t255fix seed d1) d2)) :: rs ∧
      .data (.b4 (~~~fold s.t255fix seed d1)) ∈ rs) ∧
  ∃ (seed : Word) (d1 d2 : ByteString),
    checksum false (checksum false seed d1) d2 ≠ checksum false seed (d1 ++ d2)

/-- R93: streaming. Without a seed write between the two runs of CRC_BYTE the second result is the checksum of the
concatenation, also when the first result was read. -/
def Obligations.StreamingChecksum : Prop :=
  ∀ (s : State) (seed : Word) (d1 d2 : ByteString) (rest : List Event), s.errReserved = false →
    s.inputs = seedWrite seed :: (foldEvents d1 ++ resultRead :: (foldEvents d2 ++ resultRead :: rest)) →
    ∃ t rs, run (d1.length + d2.length + 3) s = .next t ∧ t.inputs = rest ∧
      ~~~fold s.t255fix (fold s.t255fix seed d1) d2 = ~~~fold s.t255fix seed (d1 ++ d2) ∧
      t.responses = .data (.b4 (checksum s.t255fix seed (d1 ++ d2))) :: rs ∧
      .data (.b4 (checksum s.t255fix seed d1)) ∈ rs

/-! ## The keyed digest -/

/-- R100 (with steps 1 and 4 of R97): an accepted KD_START whose checks pass forms S1, issues it, and sets PEND, KD_STATE
and BUSY, all in one step; DONE and ERR are cleared, WIGN is kept. -/
def Obligations.KdStartStartsDigest : Prop :=
  ∀ s : State, s.busy = false → s.kdMlen.toNat ≤ 256 → s.kdKlen = 32 →
    (keyThenMessage s.mem s.kdMlen.toNat).length = 32 + s.kdMlen.toNat ∧
    ∃ st, exec .kdStart s = .next { s with
        status := st, pend := some (keyThenMessage s.mem s.kdMlen.toNat), kdState := .wait1,
        requests := keyThenMessage s.mem s.kdMlen.toNat :: s.requests } ∧
      StatusIs st true false s.wign 0 s.status

/-- R98, R128: with KD_MLEN above 256 KD_START ends with ERR 1 and BUSY and DONE 0, whatever KD_KLEN is; no request goes
out and nothing else changes. -/
def Obligations.KdStartLengthExceeded : Prop :=
  ∀ s : State, s.busy = false → 256 < s.kdMlen.toNat →
    ∃ st, exec .kdStart s = .next { s with status := st } ∧ StatusIs st false false s.wign 1 s.status

/-- R99: with KD_MLEN at most 256 and KD_KLEN not 32 KD_START ends with ERR 2, and nothing else. -/
def Obligations.KdStartInvalidKeyLength : Prop :=
  ∀ s : State, s.busy = false → s.kdMlen.toNat ≤ 256 → s.kdKlen ≠ 32 →
    ∃ st, exec .kdStart s = .next { s with status := st } ∧ StatusIs st false false s.wign 2 s.status

/-- 41_keyed_digest.md section 1: while BUSY a KD_START is discarded without its checks; only WIGN records it. -/
def Obligations.KdStartDiscardedWhileBusy : Prop :=
  ∀ s : State, s.busy = true →
    ∃ st, exec .kdStart s = .next { s with status := st } ∧ StatusIs st true s.done true s.err s.status

/-- R102: the first response. H1 takes it, S2 goes out and is outstanding, KD_STATE becomes WAIT2; STATUS, DIGEST and every
host-visible location are unchanged. -/
def Obligations.FirstHashResponse : Prop :=
  ∀ (s : State) (m : ByteString) (rest : List Event), s.errReserved = false → s.kdState = .wait1 → s.pend = some m →
    s.inputs = .engine :: rest →
    step s = .next { s with
      inputs := rest, h1 := Config.hash m, pend := some (keyThenDigest s.mem (Config.hash m)), kdState := .wait2,
      requests := keyThenDigest s.mem (Config.hash m) :: s.requests }

/-- R103: the second response. DIGEST takes all 32 bytes in one step, no request is outstanding, KD_STATE becomes IDLE,
BUSY 0 and DONE 1; ERR, WIGN and every other byte are unchanged. -/
def Obligations.SecondHashResponse : Prop :=
  ∀ (s : State) (m : ByteString) (rest : List Event), s.errReserved = false → s.mem.wf = true → s.kdState = .wait2 →
    s.pend = some m → s.inputs = .engine :: rest →
    ∃ st mem, step s = .next { s with inputs := rest, mem := mem, pend := none, kdState := .idle, status := st } ∧
      StatusIs st false true s.wign s.err s.status ∧
      (∀ (i : Nat) (h : i < 32), mem.read (0x140 + i) = (Config.hash m)[i]) ∧
      ∀ a, a < 0x140 ∨ 0x160 ≤ a → mem.read a = s.mem.read a

/-- 41_keyed_digest.md section 3: with no request outstanding a response that arrives is ignored (R106; that a late answer
is an event of its own, log entry 8, is the model's reading), and the engine's own event does nothing, since it delivers
nothing then (R105; log entry 13, the model's reading). -/
def Obligations.UnexpectedResponseIgnored : Prop :=
  ∀ (s : State) (e : Event) (rest : List Event), s.errReserved = false → s.pend = none → s.inputs = e :: rest →
    (e = .engine ∨ ∃ d, e = .lateResponse d) → step s = .next { s with inputs := rest }

/-- Log entry 8 (the model's reading of 93_implementation_defined.md U12): an answer to an abandoned request while a new
one is outstanding is outside the spec and the step refuses. -/
def Obligations.BrokenResetDutyRefused : Prop :=
  ∀ (s : State) (d : Bytes32) (m : ByteString) (rest : List Event), s.errReserved = false → s.pend = some m →
    s.inputs = .lateResponse d :: rest → step s = .refused .platformBrokeResetDuty

/-- R107, R101: from a KD_START whose checks pass, with any host accesses at all between it and the engine's first step and
between the engine's two steps, the digest ends with DIGEST = Hash(key ‖ Hash(key ‖ message)) of the key and message present at KD_START, DONE 1,
BUSY 0, and exactly the two requests S1 and S2 have gone out. -/
def Obligations.KeyedDigestEndToEnd : Prop :=
  ∀ (s : State) (as bs rest : List Event), s.errReserved = false → s.mem.wf = true → s.busy = false →
    s.kdMlen.toNat ≤ 256 → s.kdKlen = 32 → as.all Event.isAccess = true → bs.all Event.isAccess = true →
    s.inputs = cmdWrite (encode .kdStart) :: (as ++ .engine :: (bs ++ .engine :: rest)) →
    ∃ t, run (as.length + bs.length + 3) s = .next t ∧ t.inputs = rest ∧
      t.digest = (Config.hash (keyThenDigest s.mem (Config.hash (keyThenMessage s.mem s.kdMlen.toNat)))).toList ∧
      t.digest = (keyedDigest s.key (s.msg s.kdMlen.toNat)).toList ∧
      t.done = true ∧ t.busy = false ∧ t.kdState = .idle ∧ t.pend = none ∧
      t.requests = keyThenDigest s.mem (Config.hash (keyThenMessage s.mem s.kdMlen.toNat)) ::
        keyThenMessage s.mem s.kdMlen.toNat :: s.requests

/-- R109, R110: the tag depends on the 32 key bytes and the MLEN message bytes alone: two blocks that agree on those,
whatever their CRC state, CTRL, DIGEST, later MSG bytes and the host's accesses while the digest runs, end with the same
32-byte tag. -/
def Obligations.TagDependsOnKeyAndMessageOnly : Prop :=
  ∀ (s s' : State) (as bs rest as' bs' rest' : List Event), s.errReserved = false → s'.errReserved = false →
    s.mem.wf = true → s'.mem.wf = true → s.busy = false → s'.busy = false → s.kdMlen.toNat ≤ 256 → s.kdKlen = 32 →
    s'.kdMlen = s.kdMlen → s'.kdKlen = 32 → (∀ i, i < 32 → s'.mem.read (0x100 + i) = s.mem.read (0x100 + i)) →
    (∀ i, i < s.kdMlen.toNat → s'.mem.read (0x200 + i) = s.mem.read (0x200 + i)) →
    as.all Event.isAccess = true → bs.all Event.isAccess = true →
    as'.all Event.isAccess = true → bs'.all Event.isAccess = true →
    s.inputs = cmdWrite (encode .kdStart) :: (as ++ .engine :: (bs ++ .engine :: rest)) →
    s'.inputs = cmdWrite (encode .kdStart) :: (as' ++ .engine :: (bs' ++ .engine :: rest')) →
    ∃ t t', run (as.length + bs.length + 3) s = .next t ∧ run (as'.length + bs'.length + 3) s' = .next t' ∧
      t'.digest = t.digest ∧ t.digest.length = 32

/-- 41_keyed_digest.md section 3 (R104, R101): a hash request goes out only in the step of a KD_START that passes its
checks, and then it is S1, or in the step of the first response, and then it is S2; one request at most in a step. -/
def Obligations.RequestsOnlyFromStartAndFirstResponse : Prop :=
  ∀ (s t : State) (e : Event) (rest : List Event), s.inputs = e :: rest → step s = .next t →
    t.requests = s.requests ∨
    (t.requests = keyThenMessage s.mem s.kdMlen.toNat :: s.requests ∧ e = cmdWrite (encode .kdStart) ∧ s.busy = false ∧
      s.kdMlen.toNat ≤ 256 ∧ s.kdKlen = 32) ∨
    (t.requests = keyThenDigest t.mem t.h1 :: s.requests ∧ e = .engine ∧ s.kdState = .wait1 ∧ s.pend ≠ none)

/-- 10_state.md section 5 (R32, R33): no read shows H1, KD_STATE or the outstanding request; the host sees a running digest
only through BUSY. -/
def Obligations.HiddenStateIsInvisible : Prop :=
  ∀ (s : State) (off : BitVec 11) (n : Size) (d : Bytes32) (p : Option ByteString) (k : KdState),
    readResponse off n { s with h1 := d, pend := p, kdState := k } = readResponse off n s

/-- R111, R138: while a digest runs and the hash engine does not answer, no host access ends it or touches its key, its
message, its lengths, DIGEST, H1 or the outstanding request. -/
def Obligations.HostCannotDisturbRunningDigest : Prop :=
  ∀ (s : State) (es rest : List Event), s.errReserved = false → s.busy = true → es.all Event.isAccess = true →
    s.inputs = es ++ rest →
    ∃ t, run es.length s = .next t ∧ t.inputs = rest ∧ t.busy = true ∧ t.kdState = s.kdState ∧ t.pend = s.pend ∧
      t.h1 = s.h1 ∧ t.requests = s.requests ∧ t.kdMlen = s.kdMlen ∧ t.kdKlen = s.kdKlen ∧
      ∀ a, t.mem.read a = s.mem.read a

/-- R153: in a safe state, any schedule of host accesses and engine steps with at least two engine steps brings BUSY to 0
within it; no host access can prolong the digest. (Fairness is the premise that the engine steps are there.) -/
def Obligations.TwoEngineStepsEndTheDigest : Prop :=
  ∀ s : State, s.Inv → s.inputs.all Event.isOrdinary = true → 2 ≤ s.inputs.count .engine →
    ∃ k t, k ≤ s.inputs.length ∧ run k s = .next t ∧ t.busy = false

/-! ## The host bus -/

/-- R122, R123: an access is answered BusError exactly for the three causes, and then changes nothing; every other access
is answered OK, with data when it is a read. -/
def Obligations.BusErrorExactlyForItsCauses : Prop :=
  ∀ (s : State) (a : Access) (rest : List Event), s.errReserved = false → s.inputs = .access a :: rest →
    (accessRejected a.off a.size →
      step s = .next { s with inputs := rest, responses := .busError :: s.responses }) ∧
    (¬ accessRejected a.off a.size → ∃ t r, step s = .next t ∧ t.responses = r :: s.responses ∧ r ≠ .busError ∧
      ((∃ off d, a = .write off d) → r = .writeOk) ∧
      ((∃ off n, a = .read off n) → ∃ d, r = .data d ∧ d.size = a.size))

/-- R54: MemRead, location by location; no branch changes any state. -/
def Obligations.MemReadStep : Prop :=
  ∀ (s : State) (off : BitVec 11) (n : Size) (rest : List Event), s.errReserved = false →
    s.inputs = .access (.read off n) :: rest →
    ∃ r, step s = .next { s with inputs := rest, responses := r :: s.responses } ∧
      (accessRejected off n → r = .busError) ∧
      (¬ accessRejected off n →
        (off = 0x000 → r = .data (.b4 0x4E534331)) ∧
        (off = 0x004 → r = .data (.b4 (s.ctrl &&& 0x00000001#32))) ∧
        (off = 0x008 → r = .data (.b4 (s.status &&& 0x000000F7#32))) ∧
        (off = 0x00C → r = .data (.b4 0x00000000)) ∧
        (off = 0x010 → r = .data (.b4 s.crcAcc)) ∧
        (off = 0x014 → r = .data (.b4 (~~~s.crcAcc))) ∧
        (off = 0x018 → r = .data (.b4 s.kdMlen)) ∧
        (off = 0x01C → r = .data (.b4 s.kdKlen)) ∧
        ((0x100 ≤ off.toNat ∧ off.toNat < 0x120) ∨ (0x140 ≤ off.toNat ∧ off.toNat < 0x160) ∨
            (0x200 ≤ off.toNat ∧ off.toNat < 0x300) →
          ∃ d, r = .data d ∧ d.size = n ∧ d.bytes = (List.range n.bytes).map (fun k => s.mem.read (off.toNat + k))) ∧
        (0x400 ≤ off.toNat → ∃ d, r = .data d ∧ d.size = n ∧
          d.bytes = (List.range n.bytes).map (fun k =>
            (table s.t255fix (BitVec.ofNat 8 ((off.toNat - 0x400) / 4))).extractLsb'
              (8 * ((off.toNat - 0x400) % 4 + k)) 8)))

/-- R55: MemWrite, location by location. -/
def Obligations.MemWriteStep : Prop :=
  ∀ (s : State) (off : BitVec 11) (d : Data) (rest : List Event), s.errReserved = false →
    s.inputs = .access (.write off d) :: rest →
    let ok : State := { s with inputs := rest, responses := .writeOk :: s.responses }
    (accessRejected off d.size → step s = .next { s with inputs := rest, responses := .busError :: s.responses }) ∧
    (¬ accessRejected off d.size →
      (off = 0x000 ∨ off = 0x008 ∨ off = 0x014 → step s = .next ok) ∧
      ((0x140 ≤ off.toNat ∧ off.toNat < 0x160) ∨ 0x400 ≤ off.toNat → step s = .next ok) ∧
      (off = 0x004 → step s = .next { ok with ctrl := d.word &&& 0x00000001#32 }) ∧
      (off = 0x00C → (∀ i, decode d.word = .ok i → step s = exec i ok) ∧
        (decode d.word = .error .illegal → ∃ st, step s = .next { ok with status := st } ∧
          StatusIs st s.busy s.done s.wign 3 s.status)) ∧
      (off = 0x010 → step s = .next { ok with crcAcc := d.word }) ∧
      (isLockable off → s.busy = true → ∃ st, step s = .next { ok with status := st } ∧
        StatusIs st true s.done true s.err s.status) ∧
      (off = 0x018 → s.busy = false → step s = .next { ok with kdMlen := d.word }) ∧
      (off = 0x01C → s.busy = false → step s = .next { ok with kdKlen := d.word }) ∧
      ((0x100 ≤ off.toNat ∧ off.toNat < 0x120) ∨ (0x200 ≤ off.toNat ∧ off.toNat < 0x300) → s.busy = false →
        s.mem.wf = true → ∃ m, step s = .next { ok with mem := m } ∧
          (∀ k, k < d.size.bytes → m.read (off.toNat + k) = d.word.extractLsb' (8 * k) 8) ∧
          ∀ a, a < off.toNat ∨ off.toNat + d.size.bytes ≤ a → m.read a = s.mem.read a))

/-- R62: while BUSY a write to a locked location, and a KD_START, answers OK, stores nothing and sets WIGN; a read of a
locked location answers the same as while not BUSY. -/
def Obligations.LockedWritesAreDiscarded : Prop :=
  (∀ (s : State) (e : Event) (rest : List Event), s.errReserved = false → s.busy = true → s.inputs = e :: rest →
    (e = cmdWrite (encode .kdStart) ∨
      ∃ off d, e = .access (.write off d) ∧ isLockable off ∧ ¬ accessRejected off d.size) →
    ∃ st, step s = .next { s with inputs := rest, responses := .writeOk :: s.responses, status := st } ∧
      StatusIs st true s.done true s.err s.status) ∧
  ∀ (s : State) (off : BitVec 11) (n : Size) (st : Word), isLockable off →
    readResponse off n { s with status := st } = readResponse off n s

/-- R47: the byte at offset `off + k` is bits `[8k+7:8k]` of the n-byte value: what a write stored in KEY or MSG is read
back byte by byte. -/
def Obligations.LittleEndianReadBack : Prop :=
  ∀ (s : State) (off : BitVec 11) (d : Data) (k : Nat) (rest : List Event), s.errReserved = false → s.busy = false →
    s.mem.wf = true → (0x100 ≤ off.toNat ∧ off.toNat < 0x120) ∨ (0x200 ≤ off.toNat ∧ off.toNat < 0x300) →
    off.toNat % d.size.bytes = 0 → k < d.size.bytes →
    s.inputs = .access (.write off d) :: .access (.read (BitVec.ofNat 11 (off.toNat + k)) .one) :: rest →
    ∃ t rs, run 2 s = .next t ∧ t.inputs = rest ∧ t.responses = .data (.b1 (d.word.extractLsb' (8 * k) 8)) :: rs

/-- R131: the code of a command error is in STATUS at the end of the step of the offending CMD write: the STATUS read that
follows returns it. -/
def Obligations.ErrorsReportedSynchronously : Prop :=
  ∀ (s : State) (w : Word) (rest : List Event), s.errReserved = false → s.inputs = cmdWrite w :: statusRead :: rest →
    ∃ t x rs, run 2 s = .next t ∧ t.inputs = rest ∧ t.responses = .data (.b4 x) :: rs ∧
      ((∀ i, encode i ≠ w) → x.extractLsb' 4 4 = 3#4) ∧
      (w = encode .kdStart → s.busy = false → 256 < s.kdMlen.toNat → x.extractLsb' 4 4 = 1#4) ∧
      (w = encode .kdStart → s.busy = false → s.kdMlen.toNat ≤ 256 → s.kdKlen ≠ 32 → x.extractLsb' 4 4 = 2#4)

/-- 20_memory.md section 3 (R52): an access that lies inside the window at `base` reaches the block at its offset; one that
does not never reaches it. For a misaligned access that starts inside and runs past the end this is the model's choice (log
entry 19). -/
def Obligations.AddressDecodeRelativeToBase : Prop :=
  ∀ (base addr : Nat) (n : Size) (d : Data),
    (∀ off : Nat, off + n.bytes ≤ 0x800 →
      busReadEvent base (base + off) n = some (.access (.read (BitVec.ofNat 11 off) n))) ∧
    (∀ off : Nat, off + d.size.bytes ≤ 0x800 →
      busWriteEvent base (base + off) d = some (.access (.write (BitVec.ofNat 11 off) d))) ∧
    (addr < base ∨ base + 0x800 < addr + n.bytes → busReadEvent base addr n = none) ∧
    (addr < base ∨ base + 0x800 < addr + d.size.bytes → busWriteEvent base addr d = none)

/-! ## Rules about the whole machine -/

/-- R42: the writers of each element; nothing not listed writes it. -/
def Obligations.OnlyListedWriters : Prop :=
  ∀ (s t : State) (e : Event) (rest : List Event), s.inputs = e :: rest → step s = .next t → e ≠ .reset →
    (t.ctrl ≠ s.ctrl → ∃ v, e = .access (.write 0x004 (.b4 v))) ∧
    (t.crcAcc ≠ s.crcAcc → (∃ v, e = .access (.write 0x010 (.b4 v))) ∨ e = cmdWrite (encode .crcInit) ∨
      ∃ b, e = cmdWrite (encode (.crcByte b))) ∧
    (t.kdMlen ≠ s.kdMlen → s.busy = false ∧ ∃ v, e = .access (.write 0x018 (.b4 v))) ∧
    (t.kdKlen ≠ s.kdKlen → s.busy = false ∧ ∃ v, e = .access (.write 0x01C (.b4 v))) ∧
    (∀ a, a < 0x140 ∨ 0x160 ≤ a → t.mem.read a ≠ s.mem.read a → s.busy = false ∧
      ((0x100 ≤ a ∧ a < 0x120) ∨ (0x200 ≤ a ∧ a < 0x300)) ∧
      ∃ off d, e = .access (.write off d) ∧ off.toNat ≤ a ∧ a < off.toNat + d.size.bytes) ∧
    (∀ a, 0x140 ≤ a → a < 0x160 → t.mem.read a ≠ s.mem.read a → e = .engine ∧ s.kdState = .wait2) ∧
    (t.kdState ≠ s.kdState ∨ t.pend ≠ s.pend → e = .engine ∨ e = cmdWrite (encode .kdStart)) ∧
    (t.h1 ≠ s.h1 → e = .engine ∧ s.kdState = .wait1) ∧
    (t.status ≠ s.status → (e = .engine ∧ s.kdState = .wait2) ∨ e = cmdWrite (encode .kdStart) ∨
      e = cmdWrite (encode .statClr) ∨ (∃ w, e = cmdWrite w ∧ ∀ i, encode i ≠ w) ∨
      (s.busy = true ∧ ∃ off d, e = .access (.write off d) ∧ isLockable off))

/-- R63: no CRC operation reads or writes KD state or STATUS (so it does the same while BUSY as while not), and no KD
operation reads or writes CRC state. -/
def Obligations.UnitsAreIndependent : Prop :=
  (∀ (s k t : State) (e : Event) (rest : List Event), s.errReserved = false → k.errReserved = false →
    s.inputs = e :: rest → e.isCrcOp = true → step s = .next t →
    t = t.withKdOf s ∧ step (s.withKdOf k) = .next (t.withKdOf k)) ∧
  ∀ (s c t : State) (e : Event) (rest : List Event), s.inputs = e :: rest → e.isKdOp = true → step s = .next t →
    t = t.withCrcOf s ∧ step (s.withCrcOf c) = .next (t.withCrcOf c)

/-- 60_exceptions.md section 2 (R129) with R63: a CRC operation and a step of the hash engine may come in either order;
the block and the host end the same. -/
def Obligations.CrcOpsCommuteWithEngineSteps : Prop :=
  ∀ (s : State) (e : Event) (rest : List Event), s.errReserved = false → e.isCrcOp = true →
    run 2 { s with inputs := e :: .engine :: rest } = run 2 { s with inputs := .engine :: e :: rest }

/-- R39: once set WIGN stays 1 until STAT_CLR or reset, whatever else happens; it becomes 1 only when a host write or a
KD_START is discarded because the KD unit is busy. -/
def Obligations.WignIsSticky : Prop :=
  ∀ (s t : State) (e : Event) (rest : List Event), s.inputs = e :: rest → step s = .next t →
    (s.wign = true → e ≠ .reset → e ≠ cmdWrite (encode .statClr) → t.wign = true) ∧
    (s.wign = false → t.wign = true → s.busy = true ∧
      (e = cmdWrite (encode .kdStart) ∨ ∃ off d, e = .access (.write off d) ∧ isLockable off))

/-- 20_memory.md section 7 (R65): apart from reset, the step that changes DIGEST also sets BUSY to 0 and DONE to 1, and
changes no byte outside DIGEST. -/
def Obligations.DigestChangesOnlyAtCompletion : Prop :=
  ∀ (s t : State) (e : Event) (rest : List Event) (i : Nat), s.inputs = e :: rest → step s = .next t → e ≠ .reset →
    i < 32 → t.mem.read (0x140 + i) ≠ s.mem.read (0x140 + i) →
    t.busy = false ∧ t.done = true ∧ t.kdState = .idle ∧ ∀ a, a < 0x140 ∨ 0x160 ≤ a → t.mem.read a = s.mem.read a

/-- Log entry 7 (the model's reading of 93_implementation_defined.md U10): a state whose ERR is a reserved code faults at
every event but reset. -/
def Obligations.ReservedErrCodeFaults : Prop :=
  ∀ (s : State) (e : Event) (rest : List Event), s.errReserved = true → s.inputs = e :: rest → e ≠ .reset →
    step s = .fault .reservedErrCode

/-- Log entry 2 (the model's choice): with no event to come the block waits and nothing changes. -/
def Obligations.NoEventNoChange : Prop := ∀ s : State, s.inputs = [] → step s = .next s

/-! ## Invariants -/

/-- The state after reset is safe. -/
def Obligations.ResetIsSafe : Prop := State.reset.Inv

/-- R36: BUSY, KD_STATE and PEND agree at the end of every step, and PEND is the request KD_STATE says. -/
def Obligations.SequencerStaysConsistent : Prop :=
  ∀ s t : State, s.sequencerConsistent → step s = .next t →
    (t.busy = true ↔ t.kdState ≠ .idle) ∧ (t.kdState ≠ .idle ↔ t.pend ≠ none) ∧
    (t.kdState = .wait1 → t.pend = some (keyThenMessage t.mem t.kdMlen.toNat)) ∧
    (t.kdState = .wait2 → t.pend = some (keyThenDigest t.mem t.h1))

/-- 10_state.md section 6 (R37): DONE and BUSY are never both 1, and with either of them ERR is 0 or IllegalCommand.
The premise is the invariant of `Obligations.SequencerStaysConsistent`. -/
def Obligations.CompletionFlagsStayConsistent : Prop :=
  ∀ s t : State, s.sequencerConsistent → s.completionConsistent → step s = .next t → t.completionConsistent

/-- 10_state.md R18, R38: the reserved bits of CTRL and STATUS stay 0 and ERR never holds a reserved code. -/
def Obligations.ReservedFieldsStayLegal : Prop :=
  ∀ s t : State, s.fieldsLegal → step s = .next t → t.fieldsLegal

/-- 70_reset_and_hazards.md section 5 (R154, R155): a run has ended exactly when no access is left and BUSY reads 0; then no
hash request is outstanding. The premise is the invariant of `Obligations.SequencerStaysConsistent`. -/
def Obligations.EndedRunOwesNoDigest : Prop :=
  ∀ s : State, s.sequencerConsistent →
    (s.runEnded ↔ s.inputs.all (fun e => !e.isAccess) = true ∧ s.busy = false) ∧ (s.runEnded → s.pend = none)

/-- The storage keeps its canonical form, which is the model's choice of representation (log entry 6), and lists only offsets
of KEY, DIGEST and MSG, the places of 10_state.md R17 that have storage. -/
def Obligations.StorageStaysCanonical : Prop :=
  ∀ s t : State, s.storageLegal → step s = .next t → t.storageLegal

/-- 41_keyed_digest.md section 3 (R104): every request that goes out has 32 to 288 bytes. -/
def Obligations.HashRequestsKeepTheirLengths : Prop :=
  ∀ s t : State, s.portLegal → step s = .next t → t.portLegal

/-- Every step from a safe state answers a safe next state, unless it breaks the reset duty: it faults nowhere and refuses
nowhere, whatever the event, a late answer with no request outstanding among them (R106, R141). So a run goes on and stays
safe for any number of steps as long as every state on it keeps the duty. That a step past the end of the schedule answers the
same state is the model's choice (log entry 2), and so is the late answer as an event (log entry 8). -/
def Obligations.RunsNeverStop : Prop :=
  (∀ s : State, s.Inv → s.resetDutyKept → ∃ t, step s = .next t ∧ t.Inv) ∧
  ∀ (s : State) (k : Nat), s.Inv → (∀ (j : Nat) (t : State), j < k → run j s = .next t → t.resetDutyKept) →
    ∃ t, run k s = .next t ∧ t.Inv

/-! ## The host notation -/

/-- 30_encoding.md section 5 (R79, R80): the accesses of the plain statements, and of the pseudo-instructions crc.seed,
crc.bytes, crc.result, kd.wait and kd.tag; for kd.key and kd.msg see `Obligations.KdKeyStatementLoadsKey` and
`Obligations.KdMsgStatementLoadsMessage`. That kd.wait carries its number of further rounds is the model's choice (log
entry 10). -/
def Obligations.HostStatementsAccesses : Prop :=
  HostStmt.nop.accesses = [.write 0x00C (.b4 0x00000000)] ∧
  HostStmt.crcInit.accesses = [.write 0x00C (.b4 0x01000000)] ∧
  (∀ b : Byte, (HostStmt.crcByte b.toNat).accesses = [.write 0x00C (.b4 (0x02000000#32 ||| b.setWidth 32))]) ∧
  HostStmt.kdStart.accesses = [.write 0x00C (.b4 0x10000000)] ∧
  HostStmt.statClr.accesses = [.write 0x00C (.b4 0x20000000)] ∧
  (∀ w : Word, (HostStmt.cmd w.toNat).accesses = [.write 0x00C (.b4 w)]) ∧
  (∀ (off : BitVec 11) (v : Word), (HostStmt.sw off.toNat v.toNat).accesses = [.write off (.b4 v)]) ∧
  (∀ (off : BitVec 11) (v : BitVec 16), (HostStmt.sh off.toNat v.toNat).accesses = [.write off (.b2 v)]) ∧
  (∀ (off : BitVec 11) (v : Byte), (HostStmt.sb off.toNat v.toNat).accesses = [.write off (.b1 v)]) ∧
  (∀ off : BitVec 11, (HostStmt.lw off.toNat).accesses = [.read off .four] ∧
    (HostStmt.lh off.toNat).accesses = [.read off .two] ∧ (HostStmt.lb off.toNat).accesses = [.read off .one]) ∧
  (∀ v : Word, (HostStmt.crcSeed v.toNat).accesses = [.write 0x010 (.b4 v)]) ∧
  (∀ bs : ByteString, (HostStmt.crcBytes (bs.map BitVec.toNat)).accesses =
    bs.map (fun b => .write 0x00C (.b4 (0x02000000#32 ||| b.setWidth 32)))) ∧
  HostStmt.crcResult.accesses = [.read 0x014 .four] ∧
  (∀ again : Nat, (HostStmt.kdWait again).accesses.length = again + 1 ∧
    ∀ a, a ∈ (HostStmt.kdWait again).accesses → a = .read 0x008 .four) ∧
  HostStmt.kdTag.accesses = [.read 0x140 .four, .read 0x144 .four, .read 0x148 .four, .read 0x14C .four,
    .read 0x150 .four, .read 0x154 .four, .read 0x158 .four, .read 0x15C .four]

/-- 30_encoding.md section 5 (R80): `kd.key` puts its 32 bytes into KEY, in order, and touches nothing else of KD state. -/
def Obligations.KdKeyStatementLoadsKey : Prop :=
  ∀ (s : State) (ks : List Nat) (rest : List Event), s.errReserved = false → s.busy = false → s.mem.wf = true →
    (HostStmt.kdKey ks).wellFormed = true → s.inputs = programEvents [.kdKey ks] ++ rest →
    ∃ t, run 8 s = .next t ∧ t.inputs = rest ∧ t.key.map BitVec.toNat = ks ∧ t.kdMlen = s.kdMlen ∧
      t.kdKlen = s.kdKlen ∧ t.status = s.status ∧ t.h1 = s.h1 ∧ t.kdState = s.kdState ∧ t.pend = s.pend ∧
      t.requests = s.requests ∧ ∀ a, a < 0x100 ∨ 0x120 ≤ a → t.mem.read a = s.mem.read a

/-- 30_encoding.md section 5 (R80; log entry 10): `kd.msg` puts its bytes into MSG from index 0 up, and their number into
KD_MLEN. -/
def Obligations.KdMsgStatementLoadsMessage : Prop :=
  ∀ (s : State) (bs : List Nat) (rest : List Event), s.errReserved = false → s.busy = false → s.mem.wf = true →
    (HostStmt.kdMsg bs).wellFormed = true → s.inputs = programEvents [.kdMsg bs] ++ rest →
    ∃ t, run (bs.length + 1) s = .next t ∧ t.inputs = rest ∧ (t.msg t.kdMlen.toNat).map BitVec.toNat = bs ∧
      t.key = s.key ∧ t.kdKlen = s.kdKlen ∧ t.status = s.status ∧
      ∀ a, a < 0x200 ∨ 0x200 + bs.length ≤ a → t.mem.read a = s.mem.read a
end

