-- ==== Sys2Proof/Laws/State.lean ====
section
/-! SUPPORT. One lemma per field per update of State: no later proof unfolds a record update. -/

namespace Sys2Proof.Machine

section setCtrl
variable (s : State) (v : Word)
@[simp] theorem setCtrl_ctrl : (s.setCtrl v).ctrl = v := rfl
@[simp] theorem setCtrl_status : (s.setCtrl v).status = s.status := rfl
@[simp] theorem setCtrl_crcAcc : (s.setCtrl v).crcAcc = s.crcAcc := rfl
@[simp] theorem setCtrl_kdMlen : (s.setCtrl v).kdMlen = s.kdMlen := rfl
@[simp] theorem setCtrl_kdKlen : (s.setCtrl v).kdKlen = s.kdKlen := rfl
@[simp] theorem setCtrl_mem : (s.setCtrl v).mem = s.mem := rfl
@[simp] theorem setCtrl_kdState : (s.setCtrl v).kdState = s.kdState := rfl
@[simp] theorem setCtrl_h1 : (s.setCtrl v).h1 = s.h1 := rfl
@[simp] theorem setCtrl_pend : (s.setCtrl v).pend = s.pend := rfl
@[simp] theorem setCtrl_inputs : (s.setCtrl v).inputs = s.inputs := rfl
@[simp] theorem setCtrl_responses : (s.setCtrl v).responses = s.responses := rfl
@[simp] theorem setCtrl_requests : (s.setCtrl v).requests = s.requests := rfl
end setCtrl

section setStatus
variable (s : State) (v : Word)
@[simp] theorem setStatus_ctrl : (s.setStatus v).ctrl = s.ctrl := rfl
@[simp] theorem setStatus_status : (s.setStatus v).status = v := rfl
@[simp] theorem setStatus_crcAcc : (s.setStatus v).crcAcc = s.crcAcc := rfl
@[simp] theorem setStatus_kdMlen : (s.setStatus v).kdMlen = s.kdMlen := rfl
@[simp] theorem setStatus_kdKlen : (s.setStatus v).kdKlen = s.kdKlen := rfl
@[simp] theorem setStatus_mem : (s.setStatus v).mem = s.mem := rfl
@[simp] theorem setStatus_kdState : (s.setStatus v).kdState = s.kdState := rfl
@[simp] theorem setStatus_h1 : (s.setStatus v).h1 = s.h1 := rfl
@[simp] theorem setStatus_pend : (s.setStatus v).pend = s.pend := rfl
@[simp] theorem setStatus_inputs : (s.setStatus v).inputs = s.inputs := rfl
@[simp] theorem setStatus_responses : (s.setStatus v).responses = s.responses := rfl
@[simp] theorem setStatus_requests : (s.setStatus v).requests = s.requests := rfl
end setStatus

section setCrcAcc
variable (s : State) (v : Word)
@[simp] theorem setCrcAcc_ctrl : (s.setCrcAcc v).ctrl = s.ctrl := rfl
@[simp] theorem setCrcAcc_status : (s.setCrcAcc v).status = s.status := rfl
@[simp] theorem setCrcAcc_crcAcc : (s.setCrcAcc v).crcAcc = v := rfl
@[simp] theorem setCrcAcc_kdMlen : (s.setCrcAcc v).kdMlen = s.kdMlen := rfl
@[simp] theorem setCrcAcc_kdKlen : (s.setCrcAcc v).kdKlen = s.kdKlen := rfl
@[simp] theorem setCrcAcc_mem : (s.setCrcAcc v).mem = s.mem := rfl
@[simp] theorem setCrcAcc_kdState : (s.setCrcAcc v).kdState = s.kdState := rfl
@[simp] theorem setCrcAcc_h1 : (s.setCrcAcc v).h1 = s.h1 := rfl
@[simp] theorem setCrcAcc_pend : (s.setCrcAcc v).pend = s.pend := rfl
@[simp] theorem setCrcAcc_inputs : (s.setCrcAcc v).inputs = s.inputs := rfl
@[simp] theorem setCrcAcc_responses : (s.setCrcAcc v).responses = s.responses := rfl
@[simp] theorem setCrcAcc_requests : (s.setCrcAcc v).requests = s.requests := rfl
end setCrcAcc

section setKdMlen
variable (s : State) (v : Word)
@[simp] theorem setKdMlen_ctrl : (s.setKdMlen v).ctrl = s.ctrl := rfl
@[simp] theorem setKdMlen_status : (s.setKdMlen v).status = s.status := rfl
@[simp] theorem setKdMlen_crcAcc : (s.setKdMlen v).crcAcc = s.crcAcc := rfl
@[simp] theorem setKdMlen_kdMlen : (s.setKdMlen v).kdMlen = v := rfl
@[simp] theorem setKdMlen_kdKlen : (s.setKdMlen v).kdKlen = s.kdKlen := rfl
@[simp] theorem setKdMlen_mem : (s.setKdMlen v).mem = s.mem := rfl
@[simp] theorem setKdMlen_kdState : (s.setKdMlen v).kdState = s.kdState := rfl
@[simp] theorem setKdMlen_h1 : (s.setKdMlen v).h1 = s.h1 := rfl
@[simp] theorem setKdMlen_pend : (s.setKdMlen v).pend = s.pend := rfl
@[simp] theorem setKdMlen_inputs : (s.setKdMlen v).inputs = s.inputs := rfl
@[simp] theorem setKdMlen_responses : (s.setKdMlen v).responses = s.responses := rfl
@[simp] theorem setKdMlen_requests : (s.setKdMlen v).requests = s.requests := rfl
end setKdMlen

section setKdKlen
variable (s : State) (v : Word)
@[simp] theorem setKdKlen_ctrl : (s.setKdKlen v).ctrl = s.ctrl := rfl
@[simp] theorem setKdKlen_status : (s.setKdKlen v).status = s.status := rfl
@[simp] theorem setKdKlen_crcAcc : (s.setKdKlen v).crcAcc = s.crcAcc := rfl
@[simp] theorem setKdKlen_kdMlen : (s.setKdKlen v).kdMlen = s.kdMlen := rfl
@[simp] theorem setKdKlen_kdKlen : (s.setKdKlen v).kdKlen = v := rfl
@[simp] theorem setKdKlen_mem : (s.setKdKlen v).mem = s.mem := rfl
@[simp] theorem setKdKlen_kdState : (s.setKdKlen v).kdState = s.kdState := rfl
@[simp] theorem setKdKlen_h1 : (s.setKdKlen v).h1 = s.h1 := rfl
@[simp] theorem setKdKlen_pend : (s.setKdKlen v).pend = s.pend := rfl
@[simp] theorem setKdKlen_inputs : (s.setKdKlen v).inputs = s.inputs := rfl
@[simp] theorem setKdKlen_responses : (s.setKdKlen v).responses = s.responses := rfl
@[simp] theorem setKdKlen_requests : (s.setKdKlen v).requests = s.requests := rfl
end setKdKlen

section setMem
variable (s : State) (v : Memory)
@[simp] theorem setMem_ctrl : (s.setMem v).ctrl = s.ctrl := rfl
@[simp] theorem setMem_status : (s.setMem v).status = s.status := rfl
@[simp] theorem setMem_crcAcc : (s.setMem v).crcAcc = s.crcAcc := rfl
@[simp] theorem setMem_kdMlen : (s.setMem v).kdMlen = s.kdMlen := rfl
@[simp] theorem setMem_kdKlen : (s.setMem v).kdKlen = s.kdKlen := rfl
@[simp] theorem setMem_mem : (s.setMem v).mem = v := rfl
@[simp] theorem setMem_kdState : (s.setMem v).kdState = s.kdState := rfl
@[simp] theorem setMem_h1 : (s.setMem v).h1 = s.h1 := rfl
@[simp] theorem setMem_pend : (s.setMem v).pend = s.pend := rfl
@[simp] theorem setMem_inputs : (s.setMem v).inputs = s.inputs := rfl
@[simp] theorem setMem_responses : (s.setMem v).responses = s.responses := rfl
@[simp] theorem setMem_requests : (s.setMem v).requests = s.requests := rfl
end setMem

section setKdState
variable (s : State) (v : KdState)
@[simp] theorem setKdState_ctrl : (s.setKdState v).ctrl = s.ctrl := rfl
@[simp] theorem setKdState_status : (s.setKdState v).status = s.status := rfl
@[simp] theorem setKdState_crcAcc : (s.setKdState v).crcAcc = s.crcAcc := rfl
@[simp] theorem setKdState_kdMlen : (s.setKdState v).kdMlen = s.kdMlen := rfl
@[simp] theorem setKdState_kdKlen : (s.setKdState v).kdKlen = s.kdKlen := rfl
@[simp] theorem setKdState_mem : (s.setKdState v).mem = s.mem := rfl
@[simp] theorem setKdState_kdState : (s.setKdState v).kdState = v := rfl
@[simp] theorem setKdState_h1 : (s.setKdState v).h1 = s.h1 := rfl
@[simp] theorem setKdState_pend : (s.setKdState v).pend = s.pend := rfl
@[simp] theorem setKdState_inputs : (s.setKdState v).inputs = s.inputs := rfl
@[simp] theorem setKdState_responses : (s.setKdState v).responses = s.responses := rfl
@[simp] theorem setKdState_requests : (s.setKdState v).requests = s.requests := rfl
end setKdState

section setH1
variable (s : State) (v : Bytes32)
@[simp] theorem setH1_ctrl : (s.setH1 v).ctrl = s.ctrl := rfl
@[simp] theorem setH1_status : (s.setH1 v).status = s.status := rfl
@[simp] theorem setH1_crcAcc : (s.setH1 v).crcAcc = s.crcAcc := rfl
@[simp] theorem setH1_kdMlen : (s.setH1 v).kdMlen = s.kdMlen := rfl
@[simp] theorem setH1_kdKlen : (s.setH1 v).kdKlen = s.kdKlen := rfl
@[simp] theorem setH1_mem : (s.setH1 v).mem = s.mem := rfl
@[simp] theorem setH1_kdState : (s.setH1 v).kdState = s.kdState := rfl
@[simp] theorem setH1_h1 : (s.setH1 v).h1 = v := rfl
@[simp] theorem setH1_pend : (s.setH1 v).pend = s.pend := rfl
@[simp] theorem setH1_inputs : (s.setH1 v).inputs = s.inputs := rfl
@[simp] theorem setH1_responses : (s.setH1 v).responses = s.responses := rfl
@[simp] theorem setH1_requests : (s.setH1 v).requests = s.requests := rfl
end setH1

section setPend
variable (s : State) (v : Option ByteString)
@[simp] theorem setPend_ctrl : (s.setPend v).ctrl = s.ctrl := rfl
@[simp] theorem setPend_status : (s.setPend v).status = s.status := rfl
@[simp] theorem setPend_crcAcc : (s.setPend v).crcAcc = s.crcAcc := rfl
@[simp] theorem setPend_kdMlen : (s.setPend v).kdMlen = s.kdMlen := rfl
@[simp] theorem setPend_kdKlen : (s.setPend v).kdKlen = s.kdKlen := rfl
@[simp] theorem setPend_mem : (s.setPend v).mem = s.mem := rfl
@[simp] theorem setPend_kdState : (s.setPend v).kdState = s.kdState := rfl
@[simp] theorem setPend_h1 : (s.setPend v).h1 = s.h1 := rfl
@[simp] theorem setPend_pend : (s.setPend v).pend = v := rfl
@[simp] theorem setPend_inputs : (s.setPend v).inputs = s.inputs := rfl
@[simp] theorem setPend_responses : (s.setPend v).responses = s.responses := rfl
@[simp] theorem setPend_requests : (s.setPend v).requests = s.requests := rfl
end setPend

section setInputs
variable (s : State) (v : List Event)
@[simp] theorem setInputs_ctrl : (s.setInputs v).ctrl = s.ctrl := rfl
@[simp] theorem setInputs_status : (s.setInputs v).status = s.status := rfl
@[simp] theorem setInputs_crcAcc : (s.setInputs v).crcAcc = s.crcAcc := rfl
@[simp] theorem setInputs_kdMlen : (s.setInputs v).kdMlen = s.kdMlen := rfl
@[simp] theorem setInputs_kdKlen : (s.setInputs v).kdKlen = s.kdKlen := rfl
@[simp] theorem setInputs_mem : (s.setInputs v).mem = s.mem := rfl
@[simp] theorem setInputs_kdState : (s.setInputs v).kdState = s.kdState := rfl
@[simp] theorem setInputs_h1 : (s.setInputs v).h1 = s.h1 := rfl
@[simp] theorem setInputs_pend : (s.setInputs v).pend = s.pend := rfl
@[simp] theorem setInputs_inputs : (s.setInputs v).inputs = v := rfl
@[simp] theorem setInputs_responses : (s.setInputs v).responses = s.responses := rfl
@[simp] theorem setInputs_requests : (s.setInputs v).requests = s.requests := rfl
end setInputs

section setResponses
variable (s : State) (v : List Response)
@[simp] theorem setResponses_ctrl : (s.setResponses v).ctrl = s.ctrl := rfl
@[simp] theorem setResponses_status : (s.setResponses v).status = s.status := rfl
@[simp] theorem setResponses_crcAcc : (s.setResponses v).crcAcc = s.crcAcc := rfl
@[simp] theorem setResponses_kdMlen : (s.setResponses v).kdMlen = s.kdMlen := rfl
@[simp] theorem setResponses_kdKlen : (s.setResponses v).kdKlen = s.kdKlen := rfl
@[simp] theorem setResponses_mem : (s.setResponses v).mem = s.mem := rfl
@[simp] theorem setResponses_kdState : (s.setResponses v).kdState = s.kdState := rfl
@[simp] theorem setResponses_h1 : (s.setResponses v).h1 = s.h1 := rfl
@[simp] theorem setResponses_pend : (s.setResponses v).pend = s.pend := rfl
@[simp] theorem setResponses_inputs : (s.setResponses v).inputs = s.inputs := rfl
@[simp] theorem setResponses_responses : (s.setResponses v).responses = v := rfl
@[simp] theorem setResponses_requests : (s.setResponses v).requests = s.requests := rfl
end setResponses

section setRequests
variable (s : State) (v : List ByteString)
@[simp] theorem setRequests_ctrl : (s.setRequests v).ctrl = s.ctrl := rfl
@[simp] theorem setRequests_status : (s.setRequests v).status = s.status := rfl
@[simp] theorem setRequests_crcAcc : (s.setRequests v).crcAcc = s.crcAcc := rfl
@[simp] theorem setRequests_kdMlen : (s.setRequests v).kdMlen = s.kdMlen := rfl
@[simp] theorem setRequests_kdKlen : (s.setRequests v).kdKlen = s.kdKlen := rfl
@[simp] theorem setRequests_mem : (s.setRequests v).mem = s.mem := rfl
@[simp] theorem setRequests_kdState : (s.setRequests v).kdState = s.kdState := rfl
@[simp] theorem setRequests_h1 : (s.setRequests v).h1 = s.h1 := rfl
@[simp] theorem setRequests_pend : (s.setRequests v).pend = s.pend := rfl
@[simp] theorem setRequests_inputs : (s.setRequests v).inputs = s.inputs := rfl
@[simp] theorem setRequests_responses : (s.setRequests v).responses = s.responses := rfl
@[simp] theorem setRequests_requests : (s.setRequests v).requests = v := rfl
end setRequests

section setBusy
variable (s : State) (v : Bool)
@[simp] theorem setBusy_ctrl : (s.setBusy v).ctrl = s.ctrl := rfl
@[simp] theorem setBusy_crcAcc : (s.setBusy v).crcAcc = s.crcAcc := rfl
@[simp] theorem setBusy_kdMlen : (s.setBusy v).kdMlen = s.kdMlen := rfl
@[simp] theorem setBusy_kdKlen : (s.setBusy v).kdKlen = s.kdKlen := rfl
@[simp] theorem setBusy_mem : (s.setBusy v).mem = s.mem := rfl
@[simp] theorem setBusy_kdState : (s.setBusy v).kdState = s.kdState := rfl
@[simp] theorem setBusy_h1 : (s.setBusy v).h1 = s.h1 := rfl
@[simp] theorem setBusy_pend : (s.setBusy v).pend = s.pend := rfl
@[simp] theorem setBusy_inputs : (s.setBusy v).inputs = s.inputs := rfl
@[simp] theorem setBusy_responses : (s.setBusy v).responses = s.responses := rfl
@[simp] theorem setBusy_requests : (s.setBusy v).requests = s.requests := rfl
end setBusy

section setDone
variable (s : State) (v : Bool)
@[simp] theorem setDone_ctrl : (s.setDone v).ctrl = s.ctrl := rfl
@[simp] theorem setDone_crcAcc : (s.setDone v).crcAcc = s.crcAcc := rfl
@[simp] theorem setDone_kdMlen : (s.setDone v).kdMlen = s.kdMlen := rfl
@[simp] theorem setDone_kdKlen : (s.setDone v).kdKlen = s.kdKlen := rfl
@[simp] theorem setDone_mem : (s.setDone v).mem = s.mem := rfl
@[simp] theorem setDone_kdState : (s.setDone v).kdState = s.kdState := rfl
@[simp] theorem setDone_h1 : (s.setDone v).h1 = s.h1 := rfl
@[simp] theorem setDone_pend : (s.setDone v).pend = s.pend := rfl
@[simp] theorem setDone_inputs : (s.setDone v).inputs = s.inputs := rfl
@[simp] theorem setDone_responses : (s.setDone v).responses = s.responses := rfl
@[simp] theorem setDone_requests : (s.setDone v).requests = s.requests := rfl
end setDone

section setWign
variable (s : State) (v : Bool)
@[simp] theorem setWign_ctrl : (s.setWign v).ctrl = s.ctrl := rfl
@[simp] theorem setWign_crcAcc : (s.setWign v).crcAcc = s.crcAcc := rfl
@[simp] theorem setWign_kdMlen : (s.setWign v).kdMlen = s.kdMlen := rfl
@[simp] theorem setWign_kdKlen : (s.setWign v).kdKlen = s.kdKlen := rfl
@[simp] theorem setWign_mem : (s.setWign v).mem = s.mem := rfl
@[simp] theorem setWign_kdState : (s.setWign v).kdState = s.kdState := rfl
@[simp] theorem setWign_h1 : (s.setWign v).h1 = s.h1 := rfl
@[simp] theorem setWign_pend : (s.setWign v).pend = s.pend := rfl
@[simp] theorem setWign_inputs : (s.setWign v).inputs = s.inputs := rfl
@[simp] theorem setWign_responses : (s.setWign v).responses = s.responses := rfl
@[simp] theorem setWign_requests : (s.setWign v).requests = s.requests := rfl
end setWign

section setErr
variable (s : State) (v : BitVec 4)
@[simp] theorem setErr_ctrl : (s.setErr v).ctrl = s.ctrl := rfl
@[simp] theorem setErr_crcAcc : (s.setErr v).crcAcc = s.crcAcc := rfl
@[simp] theorem setErr_kdMlen : (s.setErr v).kdMlen = s.kdMlen := rfl
@[simp] theorem setErr_kdKlen : (s.setErr v).kdKlen = s.kdKlen := rfl
@[simp] theorem setErr_mem : (s.setErr v).mem = s.mem := rfl
@[simp] theorem setErr_kdState : (s.setErr v).kdState = s.kdState := rfl
@[simp] theorem setErr_h1 : (s.setErr v).h1 = s.h1 := rfl
@[simp] theorem setErr_pend : (s.setErr v).pend = s.pend := rfl
@[simp] theorem setErr_inputs : (s.setErr v).inputs = s.inputs := rfl
@[simp] theorem setErr_responses : (s.setErr v).responses = s.responses := rfl
@[simp] theorem setErr_requests : (s.setErr v).requests = s.requests := rfl
end setErr

end Sys2Proof.Machine
end

