-- ==== Sys2Proof/Laws/Flags.lean ====
section
/-! SUPPORT. What writing one flag of STATUS does to every flag and to every other bit (spec/10_state.md R22). -/

namespace Sys2Proof.Machine

theorem getLsbD_setBit (w : Word) (i j : Nat) (b : Bool) (hi : i < 32) :
    (setBit w i b).getLsbD j = if j = i then b else w.getLsbD j := by
  by_cases hj : j < 32
  · cases b <;> by_cases h : j = i
    · subst h; simp [setBit]
    · simp [setBit, h, hj]
    · subst h; simp [setBit, hj]
    · simp [setBit, h, Ne.symm h]
  · have : j ≠ i := by omega
    simp [this, BitVec.getLsbD_of_ge _ _ (Nat.le_of_not_lt hj)]

theorem getLsbD_setErrField (w : Word) (e : BitVec 4) (j : Nat) :
    (setErrField w e).getLsbD j = if 4 ≤ j ∧ j < 8 then e.getLsbD (j - 4) else w.getLsbD j := by
  by_cases hj : j < 32
  · have mask : (0xFFFFFF0F#32).getLsbD j = !decide (4 ≤ j ∧ j < 8) := by interval_cases j <;> decide
    rw [setErrField, BitVec.getLsbD_or, BitVec.getLsbD_and, BitVec.getLsbD_shiftLeft, BitVec.getLsbD_setWidth, mask]
    by_cases h : 4 ≤ j ∧ j < 8
    · simp [h, hj, show ¬ j < 4 by omega, show j - 4 < 32 by omega]
    · by_cases h4 : j < 4
      · simp [h4, show ¬ 4 ≤ j by omega]
      · simp [h, BitVec.getLsbD_of_ge e (j - 4) (by omega)]
  · simp [BitVec.getLsbD_of_ge _ _ (Nat.le_of_not_lt hj), show ¬ j < 8 by omega]

theorem getLsbD_err (s : State) (i : Nat) (hi : i < 4) : s.err.getLsbD i = s.status.getLsbD (4 + i) := by
  simp [State.err, hi]

@[simp] theorem setBusy_busy (s : State) (b : Bool) : (s.setBusy b).busy = b := by
  rw [State.busy, State.setBusy, setStatus_status, getLsbD_setBit _ _ _ _ (by decide)]; rfl
@[simp] theorem setBusy_done (s : State) (b : Bool) : (s.setBusy b).done = s.done := by
  rw [State.done, State.setBusy, setStatus_status, getLsbD_setBit _ _ _ _ (by decide)]; rfl
@[simp] theorem setBusy_wign (s : State) (b : Bool) : (s.setBusy b).wign = s.wign := by
  rw [State.wign, State.setBusy, setStatus_status, getLsbD_setBit _ _ _ _ (by decide)]; rfl
@[simp] theorem setDone_busy (s : State) (b : Bool) : (s.setDone b).busy = s.busy := by
  rw [State.busy, State.setDone, setStatus_status, getLsbD_setBit _ _ _ _ (by decide)]; rfl
@[simp] theorem setDone_done (s : State) (b : Bool) : (s.setDone b).done = b := by
  rw [State.done, State.setDone, setStatus_status, getLsbD_setBit _ _ _ _ (by decide)]; rfl
@[simp] theorem setDone_wign (s : State) (b : Bool) : (s.setDone b).wign = s.wign := by
  rw [State.wign, State.setDone, setStatus_status, getLsbD_setBit _ _ _ _ (by decide)]; rfl
@[simp] theorem setWign_busy (s : State) (b : Bool) : (s.setWign b).busy = s.busy := by
  rw [State.busy, State.setWign, setStatus_status, getLsbD_setBit _ _ _ _ (by decide)]; rfl
@[simp] theorem setWign_done (s : State) (b : Bool) : (s.setWign b).done = s.done := by
  rw [State.done, State.setWign, setStatus_status, getLsbD_setBit _ _ _ _ (by decide)]; rfl
@[simp] theorem setWign_wign (s : State) (b : Bool) : (s.setWign b).wign = b := by
  rw [State.wign, State.setWign, setStatus_status, getLsbD_setBit _ _ _ _ (by decide)]; rfl
@[simp] theorem setErr_busy (s : State) (e : BitVec 4) : (s.setErr e).busy = s.busy := by
  rw [State.busy, State.setErr, setStatus_status, getLsbD_setErrField]; rfl
@[simp] theorem setErr_done (s : State) (e : BitVec 4) : (s.setErr e).done = s.done := by
  rw [State.done, State.setErr, setStatus_status, getLsbD_setErrField]; rfl
@[simp] theorem setErr_wign (s : State) (e : BitVec 4) : (s.setErr e).wign = s.wign := by
  rw [State.wign, State.setErr, setStatus_status, getLsbD_setErrField]; rfl

theorem err_eq_of_bits {s t : State} (h : ∀ j, 4 ≤ j → t.status.getLsbD j = s.status.getLsbD j) : t.err = s.err := by
  apply BitVec.eq_of_getLsbD_eq
  intro i hi
  rw [getLsbD_err _ _ hi, getLsbD_err _ _ hi, h _ (by omega)]

@[simp] theorem setBusy_err (s : State) (b : Bool) : (s.setBusy b).err = s.err :=
  err_eq_of_bits (fun j hj => by simp [State.setBusy, getLsbD_setBit, show j ≠ 0 by omega])
@[simp] theorem setDone_err (s : State) (b : Bool) : (s.setDone b).err = s.err :=
  err_eq_of_bits (fun j hj => by simp [State.setDone, getLsbD_setBit, show j ≠ 1 by omega])
@[simp] theorem setWign_err (s : State) (b : Bool) : (s.setWign b).err = s.err :=
  err_eq_of_bits (fun j hj => by simp [State.setWign, getLsbD_setBit, show j ≠ 2 by omega])
@[simp] theorem setErr_err (s : State) (e : BitVec 4) : (s.setErr e).err = e := by
  apply BitVec.eq_of_getLsbD_eq
  intro i hi
  rw [getLsbD_err _ _ hi]
  simp [State.setErr, getLsbD_setErrField, show 4 + i < 8 by omega]

/-- Bits 3 and 31..8 of STATUS are reserved (R22). -/
abbrev reservedStatusBit (j : Nat) : Prop := j = 3 ∨ 8 ≤ j

theorem setBusy_reserved (s : State) (b : Bool) (j : Nat) (h : reservedStatusBit j) :
    (s.setBusy b).status.getLsbD j = s.status.getLsbD j := by
  simp [State.setBusy, getLsbD_setBit, show j ≠ 0 by omega]
theorem setDone_reserved (s : State) (b : Bool) (j : Nat) (h : reservedStatusBit j) :
    (s.setDone b).status.getLsbD j = s.status.getLsbD j := by
  simp [State.setDone, getLsbD_setBit, show j ≠ 1 by omega]
theorem setWign_reserved (s : State) (b : Bool) (j : Nat) (h : reservedStatusBit j) :
    (s.setWign b).status.getLsbD j = s.status.getLsbD j := by
  simp [State.setWign, getLsbD_setBit, show j ≠ 2 by omega]
theorem setErr_reserved (s : State) (e : BitVec 4) (j : Nat) (h : reservedStatusBit j) :
    (s.setErr e).status.getLsbD j = s.status.getLsbD j := by
  simp [State.setErr, getLsbD_setErrField, show ¬ (4 ≤ j ∧ j < 8) by omega]

/-- STATUS is its four fields and its reserved bits. -/
theorem status_ext {s t : State} (busy : t.busy = s.busy) (done : t.done = s.done) (wign : t.wign = s.wign)
    (err : t.err = s.err) (rest : ∀ j, reservedStatusBit j → t.status.getLsbD j = s.status.getLsbD j) :
    t.status = s.status := by
  apply BitVec.eq_of_getLsbD_eq
  intro j _
  by_cases h0 : j = 0
  · subst h0; exact busy
  by_cases h1 : j = 1
  · subst h1; exact done
  by_cases h2 : j = 2
  · subst h2; exact wign
  by_cases hr : reservedStatusBit j
  · exact rest j hr
  · have h := getLsbD_err t (j - 4) (by omega)
    have h' := getLsbD_err s (j - 4) (by omega)
    rw [err, h', show 4 + (j - 4) = j by omega] at h
    exact h.symm

/-- The flags read only STATUS. -/
theorem flags_of_status {s t : State} (h : t.status = s.status) :
    t.busy = s.busy ∧ t.done = s.done ∧ t.wign = s.wign ∧ t.err = s.err ∧ t.errReserved = s.errReserved := by
  have err : t.err = s.err := by rw [State.err, State.err, h]
  refine ⟨?_, ?_, ?_, err, ?_⟩
  · rw [State.busy, State.busy, h]
  · rw [State.done, State.done, h]
  · rw [State.wign, State.wign, h]
  · rw [State.errReserved, State.errReserved, err]

end Sys2Proof.Machine
end

