-- ==== Sys2Proof/Laws/Memory.lean ====
section
/-! SUPPORT. The byte storage: reading back what was written, the bytes a write leaves alone, and the canonical form, which
every write keeps (spec/20_memory.md R47). -/

namespace Sys2Proof.Machine

@[simp] theorem cellsWf_cons (k : Nat) (v : Byte) (cs : List Host.Cell) :
    cellsWf ((k, v) :: cs) = true ↔ v ≠ unlistedByte ∧ (∀ c ∈ cs, k < c.1) ∧ cellsWf cs = true := by
  simp [cellsWf, and_assoc]

/-- An offset below every cell is not listed. -/
theorem cellsRead_below (cs : List Host.Cell) (a : Nat) (h : ∀ c ∈ cs, a < c.1) : cellsRead cs a = unlistedByte := by
  induction cs with
  | nil => rfl
  | cons c cs ih =>
    have hc : a < c.1 := h c (by simp)
    simp [cellsRead, show a ≠ c.1 by omega, ih (fun d hd => h d (by simp [hd]))]

theorem cellsRead_write (cs : List Host.Cell) (a : Nat) (b : Byte) (x : Nat) (wf : cellsWf cs = true) :
    cellsRead (cellsWrite cs a b) x = if x = a then b else cellsRead cs x := by
  induction cs with
  | nil => by_cases hb : b = unlistedByte <;> simp [cellsWrite, cellsRead, hb]
  | cons c cs ih =>
    obtain ⟨k, v⟩ := c
    rw [cellsWf_cons] at wf
    have low : a ≤ k → ∀ c ∈ cs, a < c.1 := fun h c hc => Nat.lt_of_le_of_lt h (wf.2.1 c hc)
    by_cases h1 : a < k
    · by_cases hb : b = unlistedByte
      · by_cases hx : x = a
        · subst hx
          simp [cellsWrite, h1, hb, cellsRead, show x ≠ k by omega, cellsRead_below cs x (low (by omega))]
        · simp [cellsWrite, h1, hb, hx]
      · simp [cellsWrite, h1, hb, cellsRead]
    · by_cases h2 : a = k
      · subst h2
        by_cases hb : b = unlistedByte
        · by_cases hx : x = a
          · subst hx; simp [cellsWrite, hb, cellsRead_below cs x wf.2.1]
          · simp [cellsWrite, hb, hx, cellsRead]
        · by_cases hx : x = a <;> simp [cellsWrite, hb, cellsRead, hx]
      · by_cases hx : x = k
        · subst hx; simp [cellsWrite, h1, h2, cellsRead, Ne.symm h2]
        · simp [cellsWrite, h1, h2, cellsRead, hx, ih wf.2.2]

theorem cellsWrite_keys (cs : List Host.Cell) (a : Nat) (b : Byte) (c : Host.Cell) (h : c ∈ cellsWrite cs a b) :
    c.1 = a ∨ c ∈ cs := by
  induction cs with
  | nil =>
    by_cases hb : b = unlistedByte <;> simp [cellsWrite, hb] at h
    simp [h]
  | cons d cs ih =>
    obtain ⟨k, v⟩ := d
    simp only [cellsWrite] at h
    split at h
    · split at h
      · exact .inr h
      · rcases List.mem_cons.1 h with h | h
        · simp [h]
        · exact .inr h
    · split at h
      · split at h
        · exact .inr (by simp [h])
        · rcases List.mem_cons.1 h with h | h
          · simp [h]
          · exact .inr (by simp [h])
      · rcases List.mem_cons.1 h with h | h
        · exact .inr (by simp [h])
        · rcases ih h with h | h
          · exact .inl h
          · exact .inr (by simp [h])

theorem cellsWrite_wf (cs : List Host.Cell) (a : Nat) (b : Byte) (wf : cellsWf cs = true) :
    cellsWf (cellsWrite cs a b) = true := by
  induction cs with
  | nil =>
    by_cases hb : b = unlistedByte <;> simp [cellsWrite, hb, cellsWf]
  | cons d cs ih =>
    obtain ⟨k, v⟩ := d
    have wf' := (cellsWf_cons k v cs).1 wf
    by_cases h1 : a < k
    · by_cases hb : b = unlistedByte
      · simpa [cellsWrite, h1, hb] using wf
      · simp only [cellsWrite, h1, hb, if_true, if_false]
        rw [cellsWf_cons]
        refine ⟨hb, ?_, wf⟩
        rintro c hc
        rcases List.mem_cons.1 hc with rfl | hc
        · exact h1
        · exact Nat.lt_trans h1 (wf'.2.1 c hc)
    · by_cases h2 : a = k
      · subst h2
        by_cases hb : b = unlistedByte
        · simpa [cellsWrite, hb] using wf'.2.2
        · simp only [cellsWrite, hb, if_true, if_false, Nat.lt_irrefl]
          rw [cellsWf_cons]
          exact ⟨hb, wf'.2.1, wf'.2.2⟩
      · simp only [cellsWrite, h1, h2, if_false]
        rw [cellsWf_cons]
        refine ⟨wf'.1, ?_, ih wf'.2.2⟩
        intro c hc
        rcases cellsWrite_keys cs a b c hc with h | h
        · omega
        · exact wf'.2.1 c h

/-- A write then a read of any byte. -/
theorem read_write (m : Memory) (a : Nat) (b : Byte) (x : Nat) (wf : m.wf = true) :
    (m.write a b).read x = if x = a then b else m.read x := cellsRead_write m.cells a b x wf

/-- Every write keeps the canonical form. -/
@[simp] theorem write_wf (m : Memory) (a : Nat) (b : Byte) (wf : m.wf = true) : (m.write a b).wf = true :=
  cellsWrite_wf m.cells a b wf

theorem writeBytes_wf (m : Memory) (a : Nat) (bs : List Byte) (wf : m.wf = true) : (m.writeBytes a bs).wf = true := by
  induction bs generalizing m a with
  | nil => exact wf
  | cons b bs ih => exact ih _ _ (write_wf m a b wf)

/-- Writing bytes, then a read of any byte. -/
theorem read_writeBytes (m : Memory) (a : Nat) (bs : List Byte) (x : Nat) (wf : m.wf = true) :
    (m.writeBytes a bs).read x = if a ≤ x ∧ x < a + bs.length then bs.getD (x - a) 0 else m.read x := by
  induction bs generalizing m a with
  | nil => simp [Memory.writeBytes]
  | cons b bs ih =>
    rw [Memory.writeBytes, ih _ _ (write_wf m a b wf), read_write m a b x wf]
    by_cases h0 : x = a
    · subst h0; simp
    · by_cases h : a + 1 ≤ x ∧ x < a + 1 + bs.length
      · have hx : x - a = (x - (a + 1)) + 1 := by omega
        have h' : a ≤ x ∧ x < a + (b :: bs).length := by simp; omega
        rw [if_pos h, if_pos h', hx, List.getD_cons_succ]
      · have h' : ¬ (a ≤ x ∧ x < a + (b :: bs).length) := by simp; omega
        rw [if_neg h, if_neg h', if_neg h0]

/-- The cells after writing bytes lie where the bytes were written or where cells lay before. -/
theorem writeBytes_cells (m : Memory) (a : Nat) (bs : List Byte) (c : Host.Cell) (h : c ∈ (m.writeBytes a bs).cells) :
    (a ≤ c.1 ∧ c.1 < a + bs.length) ∨ c ∈ m.cells := by
  induction bs generalizing m a with
  | nil => exact .inr h
  | cons b bs ih =>
    rcases ih _ _ h with h | h
    · left; simp; omega
    · rcases cellsWrite_keys m.cells a b c h with h | h
      · left; simp; omega
      · exact .inr h

theorem bytesAt_length (m : Memory) (a n : Nat) : (m.bytesAt a n).length = n := by simp [Memory.bytesAt]

/-- Two storages with the same bytes in a range give the same byte string. -/
theorem bytesAt_congr (m m' : Memory) (a n : Nat) (h : ∀ i, i < n → m'.read (a + i) = m.read (a + i)) :
    m'.bytesAt a n = m.bytesAt a n :=
  List.map_congr_left (fun i hi => h i (List.mem_range.1 hi))

/-- The bytes just written are read back. -/
theorem bytesAt_writeBytes (m : Memory) (a : Nat) (bs : List Byte) (wf : m.wf = true) :
    (m.writeBytes a bs).bytesAt a bs.length = bs := by
  apply List.ext_getElem (by simp [Memory.bytesAt])
  intro i h1 h2
  simp [Memory.bytesAt, read_writeBytes _ _ _ _ wf, h2]

theorem extract_append_low {p q : Nat} (x : BitVec p) (y : BitVec q) : (x ++ y).extractLsb' 0 q = y := by
  apply BitVec.eq_of_getLsbD_eq
  intro i hi
  simp only [BitVec.getLsbD_extractLsb', BitVec.getLsbD_append, Nat.zero_add, hi, decide_true, Bool.true_and, if_true]

theorem extract_append_high {p q : Nat} (x : BitVec p) (y : BitVec q) (k l : Nat) :
    (x ++ y).extractLsb' (q + k) l = x.extractLsb' k l := by
  apply BitVec.eq_of_getLsbD_eq
  intro i hi
  simp only [BitVec.getLsbD_extractLsb', BitVec.getLsbD_append, hi, decide_true, Bool.true_and,
    show ¬ q + k + i < q by omega, if_false, show q + k + i - q = k + i by omega]

theorem extract_self {q : Nat} (x : BitVec q) : x.extractLsb' 0 q = x := by
  apply BitVec.eq_of_getLsbD_eq
  intro i hi
  simp only [BitVec.getLsbD_extractLsb', Nat.zero_add, hi, decide_true, Bool.true_and]

/-- A value read is its bytes in order, lowest offset first (R47). -/
theorem readData_bytes (m : Memory) (a : Nat) (n : Size) : (m.readData a n).bytes = m.bytesAt a n.bytes := by
  cases n
  · rfl
  · exact congrArg₂ (fun x y => [x, y]) (extract_append_low _ _)
      ((extract_append_high _ _ 0 8).trans (extract_self _))
  · show [_, _, _, _] = [_, _, _, _]
    rw [extract_append_low, extract_append_high _ _ 0 8, extract_append_low, extract_append_high _ _ 8 8,
      extract_append_high _ _ 0 8, extract_append_low, extract_append_high _ _ 16 8, extract_append_high _ _ 8 8,
      extract_append_high _ _ 0 8, extract_self]
    rfl

@[simp] theorem data_bytes_length (d : Data) : d.bytes.length = d.size.bytes := by cases d <;> rfl

end Sys2Proof.Machine
end

