-- ==== Sys2Proof/Laws/Ops.lean ====
section
/-! SUPPORT. What each shared operation can do, said once: responses, raising and acknowledging errors, issuing a request,
the lock, the register map and the BusError test. -/

namespace Sys2Proof.Machine

section respond
variable (s : State) (r : Response)
@[simp] theorem respond_ctrl : (s.respond r).ctrl = s.ctrl := rfl
@[simp] theorem respond_status : (s.respond r).status = s.status := rfl
@[simp] theorem respond_crcAcc : (s.respond r).crcAcc = s.crcAcc := rfl
@[simp] theorem respond_kdMlen : (s.respond r).kdMlen = s.kdMlen := rfl
@[simp] theorem respond_kdKlen : (s.respond r).kdKlen = s.kdKlen := rfl
@[simp] theorem respond_mem : (s.respond r).mem = s.mem := rfl
@[simp] theorem respond_kdState : (s.respond r).kdState = s.kdState := rfl
@[simp] theorem respond_h1 : (s.respond r).h1 = s.h1 := rfl
@[simp] theorem respond_pend : (s.respond r).pend = s.pend := rfl
@[simp] theorem respond_inputs : (s.respond r).inputs = s.inputs := rfl
@[simp] theorem respond_responses : (s.respond r).responses = r :: s.responses := rfl
@[simp] theorem respond_requests : (s.respond r).requests = s.requests := rfl
@[simp] theorem respond_busy : (s.respond r).busy = s.busy := rfl
@[simp] theorem respond_done : (s.respond r).done = s.done := rfl
@[simp] theorem respond_wign : (s.respond r).wign = s.wign := rfl
@[simp] theorem respond_err : (s.respond r).err = s.err := rfl
@[simp] theorem respond_errReserved : (s.respond r).errReserved = s.errReserved := rfl
@[simp] theorem respond_t255fix : (s.respond r).t255fix = s.t255fix := rfl
end respond

section issue
variable (s : State) (m : ByteString)
@[simp] theorem issue_ctrl : (s.issue m).ctrl = s.ctrl := rfl
@[simp] theorem issue_status : (s.issue m).status = s.status := rfl
@[simp] theorem issue_crcAcc : (s.issue m).crcAcc = s.crcAcc := rfl
@[simp] theorem issue_kdMlen : (s.issue m).kdMlen = s.kdMlen := rfl
@[simp] theorem issue_kdKlen : (s.issue m).kdKlen = s.kdKlen := rfl
@[simp] theorem issue_mem : (s.issue m).mem = s.mem := rfl
@[simp] theorem issue_kdState : (s.issue m).kdState = s.kdState := rfl
@[simp] theorem issue_h1 : (s.issue m).h1 = s.h1 := rfl
@[simp] theorem issue_pend : (s.issue m).pend = some m := rfl
@[simp] theorem issue_inputs : (s.issue m).inputs = s.inputs := rfl
@[simp] theorem issue_responses : (s.issue m).responses = s.responses := rfl
@[simp] theorem issue_requests : (s.issue m).requests = m :: s.requests := rfl
end issue

/-- `raise E` changes ERR and nothing else (R125). -/
theorem raise_spec (s : State) (e : CommandError) :
    s.raise e = { s with status := (s.raise e).status } ∧ (s.raise e).err = e.code ∧ (s.raise e).busy = s.busy ∧
      (s.raise e).done = s.done ∧ (s.raise e).wign = s.wign ∧
      ∀ j, reservedStatusBit j → (s.raise e).status.getLsbD j = s.status.getLsbD j :=
  ⟨rfl, setErr_err s _, setErr_busy s _, setErr_done s _, setErr_wign s _, setErr_reserved s _⟩

/-- Acknowledging clears DONE, WIGN and ERR and changes nothing else (R117, R132). -/
theorem acknowledge_spec (s : State) :
    s.acknowledge = { s with status := s.acknowledge.status } ∧ s.acknowledge.err = 0 ∧ s.acknowledge.busy = s.busy ∧
      s.acknowledge.done = false ∧ s.acknowledge.wign = false ∧
      ∀ j, reservedStatusBit j → s.acknowledge.status.getLsbD j = s.status.getLsbD j := by
  refine ⟨rfl, setErr_err _ _, ?_, ?_, ?_, ?_⟩
  · simp [State.acknowledge]
  · simp [State.acknowledge]
  · simp [State.acknowledge]
  · intro j hj
    rw [State.acknowledge, setErr_reserved _ _ _ hj, setWign_reserved _ _ _ hj, setDone_reserved _ _ _ hj]

theorem unlessLocked_busy (s w : State) (h : s.busy = true) : s.unlessLocked w = s.setWign true := by
  simp [State.unlessLocked, h]

theorem unlessLocked_free (s w : State) (h : s.busy = false) : s.unlessLocked w = w := by
  simp [State.unlessLocked, h]

/-- Starting a digest sets BUSY and keeps every other flag (R100). -/
theorem startDigest_spec (s : State) :
    s.startDigest.busy = true ∧ s.startDigest.done = s.done ∧ s.startDigest.wign = s.wign ∧ s.startDigest.err = s.err ∧
      ∀ j, reservedStatusBit j → s.startDigest.status.getLsbD j = s.status.getLsbD j :=
  ⟨setBusy_busy _ _, setBusy_done _ _, setBusy_wign _ _, setBusy_err _ _, fun j hj => setBusy_reserved _ _ j hj⟩

/-- The second response sets DONE, clears BUSY and keeps every other flag (R103). -/
theorem secondResponse_spec (s : State) (d : Bytes32) :
    (s.secondResponse d).busy = false ∧ (s.secondResponse d).done = true ∧ (s.secondResponse d).wign = s.wign ∧
      (s.secondResponse d).err = s.err ∧
      ∀ j, reservedStatusBit j → (s.secondResponse d).status.getLsbD j = s.status.getLsbD j :=
  ⟨(setDone_busy _ _).trans (setBusy_busy _ _), setDone_done _ _, (setDone_wign _ _).trans (setBusy_wign _ _),
    (setDone_err _ _).trans (setBusy_err _ _),
    fun j hj => (setDone_reserved _ _ j hj).trans (setBusy_reserved _ _ j hj)⟩

@[simp] theorem readData_size (m : Memory) (a : Nat) (n : Size) : (m.readData a n).size = n := by cases n <;> rfl

@[simp] theorem dataAt_size (w : Word) (lo : Nat) (n : Size) : (dataAt w lo n).size = n := by cases n <;> rfl

theorem extract_extract {q : Nat} (x : BitVec q) (lo n k l : Nat) (h : k + l ≤ n) :
    (x.extractLsb' lo n).extractLsb' k l = x.extractLsb' (lo + k) l := by
  apply BitVec.eq_of_getLsbD_eq
  intro i hi
  simp only [BitVec.getLsbD_extractLsb', hi, show k + i < n by omega, decide_true, Bool.true_and, Nat.add_assoc]

/-- The bytes of a value cut out of a word are bytes of the word (R31, R95). -/
theorem dataAt_bytes (w : Word) (b : Nat) (n : Size) :
    (dataAt w (8 * b) n).bytes = (List.range n.bytes).map (fun k => w.extractLsb' (8 * (b + k)) 8) := by
  cases n
  · rfl
  · show [_, _] = [_, _]
    rw [extract_extract _ _ _ _ _ (by omega), extract_extract _ _ _ _ _ (by omega)]
    simp only [Nat.mul_add]
  · show [_, _, _, _] = [_, _, _, _]
    rw [extract_extract _ _ _ _ _ (by omega), extract_extract _ _ _ _ _ (by omega), extract_extract _ _ _ _ _ (by omega),
      extract_extract _ _ _ _ _ (by omega)]
    simp only [Nat.mul_add]

/-- The bytes of a written value are its word's bytes (R47). -/
theorem data_byte (d : Data) (k : Nat) (h : k < d.size.bytes) : d.bytes.getD k 0 = d.word.extractLsb' (8 * k) 8 := by
  cases d with
  | b1 v =>
    have : k = 0 := by simpa [Data.size, Size.bytes] using h
    subst this
    apply BitVec.eq_of_getLsbD_eq
    intro i hi
    simp only [Data.bytes, Data.word, List.getD_cons_zero, BitVec.getLsbD_extractLsb', BitVec.getLsbD_setWidth, hi,
      Nat.mul_zero, Nat.zero_add, decide_true, Bool.true_and, show i < 32 by omega]
  | b2 v =>
    have : k = 0 ∨ k = 1 := by simp [Data.size, Size.bytes] at h; omega
    rcases this with rfl | rfl <;> apply BitVec.eq_of_getLsbD_eq <;> intro i hi <;>
      simp [Data.bytes, Data.word, hi, show i < 32 by omega, show 8 + i < 32 by omega]
  | b4 v =>
    have : k = 0 ∨ k = 1 ∨ k = 2 ∨ k = 3 := by simp [Data.size, Size.bytes] at h; omega
    rcases this with rfl | rfl | rfl | rfl <;> rfl

/-- Storing one byte leaves every other byte as it was, whatever form the storage has. -/
theorem read_write_ne (m : Memory) (a : Nat) (b : Byte) (x : Nat) (hx : x ≠ a) : (m.write a b).read x = m.read x := by
  obtain ⟨cs⟩ := m
  show cellsRead (cellsWrite cs a b) x = cellsRead cs x
  induction cs with
  | nil => by_cases hb : b = unlistedByte <;> simp [cellsWrite, cellsRead, hb, hx]
  | cons c cs ih =>
    obtain ⟨k, v⟩ := c
    simp only [cellsWrite]
    split
    · split <;> simp [cellsRead, hx]
    · split
      · next h => subst h; split <;> simp [cellsRead, hx]
      · simp [cellsRead, ih]

theorem read_writeBytes_ne (m : Memory) (a : Nat) (bs : List Byte) (x : Nat) (hx : x < a ∨ a + bs.length ≤ x) :
    (m.writeBytes a bs).read x = m.read x := by
  induction bs generalizing m a with
  | nil => rfl
  | cons b bs ih =>
    simp only [List.length_cons] at hx
    rw [Memory.writeBytes, ih _ _ (by omega), read_write_ne _ _ _ _ (by omega)]

/-! ## The register map -/

theorem registerAt_register (r : Nat) (h : r < 8) :
    registerAt r = .id ∨ registerAt r = .ctrl ∨ registerAt r = .status ∨ registerAt r = .cmd ∨ registerAt r = .crcAcc ∨
      registerAt r = .crcResult ∨ registerAt r = .kdMlen ∨ registerAt r = .kdKlen := by
  interval_cases r <;> simp [registerAt]

theorem place_reserved (off : BitVec 11) : place off = .reserved ↔ inReservedRange off.toNat := by
  by_cases h : off.toNat < 0x020
  · rcases registerAt_register (off.toNat / 4) (by omega) with h' | h' | h' | h' | h' | h' | h' | h' <;>
      simp only [place, h, if_true, h', reduceCtorEq, false_iff] <;> omega
  · simp only [place, h, if_false, windowAt]
    split_ifs <;> simp only [false_iff, true_iff] <;> omega

theorem place_key (off : BitVec 11) : place off = .key ↔ 0x100 ≤ off.toNat ∧ off.toNat < 0x120 := by
  by_cases h : off.toNat < 0x020
  · rcases registerAt_register (off.toNat / 4) (by omega) with h' | h' | h' | h' | h' | h' | h' | h' <;>
      simp only [place, h, if_true, h', reduceCtorEq, false_iff] <;> omega
  · simp only [place, h, if_false, windowAt]
    split_ifs <;> simp only [false_iff, true_iff] <;> omega

theorem place_digest (off : BitVec 11) : place off = .digest ↔ 0x140 ≤ off.toNat ∧ off.toNat < 0x160 := by
  by_cases h : off.toNat < 0x020
  · rcases registerAt_register (off.toNat / 4) (by omega) with h' | h' | h' | h' | h' | h' | h' | h' <;>
      simp only [place, h, if_true, h', reduceCtorEq, false_iff] <;> omega
  · simp only [place, h, if_false, windowAt]
    split_ifs <;> simp only [false_iff, true_iff] <;> omega

theorem place_msg (off : BitVec 11) : place off = .msg ↔ 0x200 ≤ off.toNat ∧ off.toNat < 0x300 := by
  by_cases h : off.toNat < 0x020
  · rcases registerAt_register (off.toNat / 4) (by omega) with h' | h' | h' | h' | h' | h' | h' | h' <;>
      simp only [place, h, if_true, h', reduceCtorEq, false_iff] <;> omega
  · simp only [place, h, if_false, windowAt]
    split_ifs <;> simp only [false_iff, true_iff] <;> omega

theorem place_table (off : BitVec 11) : place off = .table ↔ 0x400 ≤ off.toNat := by
  by_cases h : off.toNat < 0x020
  · rcases registerAt_register (off.toNat / 4) (by omega) with h' | h' | h' | h' | h' | h' | h' | h' <;>
      simp only [place, h, if_true, h', reduceCtorEq, false_iff] <;> omega
  · simp only [place, h, if_false, windowAt]
    split_ifs <;> simp only [false_iff, true_iff] <;> omega

/-- The BusError test is the three causes of R122. -/
theorem busFault_iff (off : BitVec 11) (n : Size) : busFault off n = true ↔ accessRejected off n := by
  rw [busFault, accessRejected, ← place_reserved]
  by_cases h1 : aligned off n = true
  · by_cases h2 : place off = .reserved
    · simp [h1, h2]
    · have hm : off.toNat % n.bytes = 0 := by simpa [aligned] using h1
      simp only [h1, h2, hm, isRegister, Bool.not_true, Bool.false_eq_true, if_false, ne_eq, not_true_eq_false, false_or]
      by_cases h3 : off.toNat < 0x020 <;> cases n <;> simp [h3]
  · have : off.toNat % n.bytes ≠ 0 := by simpa [aligned] using h1
    simp [h1, this]

theorem busFault_false (off : BitVec 11) (n : Size) (h : ¬ accessRejected off n) : busFault off n = false := by
  rw [← busFault_iff] at h
  exact Bool.eq_false_iff.2 h

/-- An access the block performs at no register is one to a window. -/
theorem window_access (off : BitVec 11) (n : Size) (h : busFault off n = false) (hr : ¬ off.toNat < 0x020) :
    place off = .key ∨ place off = .digest ∨ place off = .msg ∨ place off = .table := by
  have hn : ¬ inReservedRange off.toNat := by
    intro hn
    have : busFault off n = true := (busFault_iff off n).2 (.inr (.inl hn))
    simp [h] at this
  have := off.isLt
  rw [place_key, place_digest, place_msg, place_table]
  simp only [inReservedRange] at hn
  omega

/-- An access the block performs is aligned (R51). -/
theorem aligned_access (off : BitVec 11) (n : Size) (h : busFault off n = false) : off.toNat % n.bytes = 0 := by
  by_contra hn
  have : busFault off n = true := (busFault_iff off n).2 (.inl hn)
  simp [h] at this

/-- An access the block performs is at a location the map has. -/
theorem place_of_access (off : BitVec 11) (n : Size) (h : busFault off n = false) : place off ≠ .reserved := by
  intro hn
  have : busFault off n = true := (busFault_iff off n).2 (.inr (.inl ((place_reserved off).1 hn)))
  simp [h] at this

/-- An access the block performs at a register is a 4-byte access at a multiple of 4. -/
theorem register_access (off : BitVec 11) (n : Size) (h : busFault off n = false) (hr : off.toNat < 0x020) :
    n = .four ∧ off.toNat % 4 = 0 := by
  have : ¬ accessRejected off n := by rw [← busFault_iff, h]; simp
  simp only [accessRejected, not_or, not_and, not_not] at this
  have h4 := this.2.2 hr
  subst h4
  exact ⟨rfl, this.1⟩

theorem data_four (d : Data) (h : d.size = .four) : ∃ v, d = .b4 v := by
  cases d <;> simp [Data.size] at h
  exact ⟨_, rfl⟩

end Sys2Proof.Machine
end

