-- ==== Sys2Proof/Laws/Bus.lean ====
section
/-! SUPPORT. One inversion lemma for a step and one for each shared operation of the bus: everything it can do, said once,
for the provers to cite instead of unfolding. -/

namespace Sys2Proof.Machine

/-- A step with an event to come, in a state whose ERR is legal, is that event happening. -/
theorem step_event (s : State) (e : Event) (rest : List Event) (h : s.inputs = e :: rest) (he : s.errReserved = false) :
    step s = act e (s.setInputs rest) := by
  have : (s.setInputs rest).errReserved = s.errReserved := rfl
  simp [step, h, deliver, this, he]

/-- Reset happens in every state. -/
theorem step_reset (s : State) (rest : List Event) (h : s.inputs = .reset :: rest) :
    step s = .next (s.setInputs rest).resetEvent := by
  simp [step, h, deliver, act]

/-- A step that answers a next state is a wait, a reset, or an event in a state whose ERR is legal. -/
theorem step_next (s t : State) (h : step s = .next t) :
    (s.inputs = [] ∧ t = s) ∨ (∃ rest, s.inputs = .reset :: rest ∧ t = (s.setInputs rest).resetEvent) ∨
      ∃ e rest, s.inputs = e :: rest ∧ e ≠ .reset ∧ s.errReserved = false ∧ act e (s.setInputs rest) = .next t := by
  cases hi : s.inputs with
  | nil => left; simpa [step, hi, waitForEvent, eq_comm] using h
  | cons e rest =>
    right
    by_cases hr : e = .reset
    · subst hr
      rw [step_reset s rest hi] at h
      exact .inl ⟨rest, rfl, by simpa [eq_comm] using h⟩
    · cases he : s.errReserved with
      | false => rw [step_event s e rest hi he] at h; exact .inr ⟨e, rest, rfl, hr, rfl, h⟩
      | true =>
        have : (s.setInputs rest).errReserved = true := he
        simp [step, hi, deliver, this, hr] at h

/-- Every command answers a next state, in every state. -/
theorem exec_answers_next (i : Instr) (s : State) : ∃ t, exec i s = .next t := by
  cases i <;> exact ⟨_, rfl⟩

/-- What a write that the block performs can do (R55), one case per location. -/
theorem memWrite_cases (off : BitVec 11) (d : Data) (s : State) (hf : busFault off d.size = false) :
    (memWrite off d s = .next s ∧ (off = 0x000 ∨ off = 0x008 ∨ off = 0x014 ∨ place off = .digest ∨ place off = .table)) ∨
    (∃ v, off = 0x004 ∧ d = .b4 v ∧ memWrite off d s = .next (s.setCtrl (v &&& ctrlMask))) ∨
    (∃ v, off = 0x00C ∧ d = .b4 v ∧ memWrite off d s = runCommand v s) ∨
    (∃ v, off = 0x010 ∧ d = .b4 v ∧ memWrite off d s = .next (s.setCrcAcc v)) ∨
    (∃ v, off = 0x018 ∧ d = .b4 v ∧ memWrite off d s = .next (s.unlessLocked (s.setKdMlen v))) ∨
    (∃ v, off = 0x01C ∧ d = .b4 v ∧ memWrite off d s = .next (s.unlessLocked (s.setKdKlen v))) ∨
    ((place off = .key ∨ place off = .msg) ∧ memWrite off d s = .next (s.unlessLocked (s.storeBytes off d))) := by
  have lit : ∀ n : Nat, n < 2048 → off.toNat = n → off = BitVec.ofNat 11 n :=
    fun n hn h => BitVec.eq_of_toNat_eq (by simp [h, Nat.mod_eq_of_lt hn])
  by_cases hr : off.toNat < 0x020
  · obtain ⟨hd, ha⟩ := register_access off d.size hf hr
    obtain ⟨v, rfl⟩ := data_four d hd
    have : off.toNat = 0 ∨ off.toNat = 4 ∨ off.toNat = 8 ∨ off.toNat = 12 ∨ off.toNat = 16 ∨ off.toNat = 20 ∨
        off.toNat = 24 ∨ off.toNat = 28 := by omega
    rcases this with h | h | h | h | h | h | h | h <;> have ho := lit _ (by omega) h <;> subst ho
    · exact .inl ⟨rfl, .inl rfl⟩
    · exact .inr (.inl ⟨v, rfl, rfl, rfl⟩)
    · exact .inl ⟨rfl, .inr (.inl rfl)⟩
    · exact .inr (.inr (.inl ⟨v, rfl, rfl, rfl⟩))
    · exact .inr (.inr (.inr (.inl ⟨v, rfl, rfl, rfl⟩)))
    · exact .inl ⟨rfl, .inr (.inr (.inl rfl))⟩
    · exact .inr (.inr (.inr (.inr (.inl ⟨v, rfl, rfl, rfl⟩))))
    · exact .inr (.inr (.inr (.inr (.inr (.inl ⟨v, rfl, rfl, rfl⟩)))))
  · have := window_access off d.size hf hr
    rcases this with h | h | h | h
    · exact .inr (.inr (.inr (.inr (.inr (.inr ⟨.inl h, by simp [memWrite, h]⟩)))))
    · exact .inl ⟨by simp [memWrite, h], .inr (.inr (.inr (.inl h)))⟩
    · exact .inr (.inr (.inr (.inr (.inr (.inr ⟨.inr h, by simp [memWrite, h]⟩)))))
    · exact .inl ⟨by simp [memWrite, h], .inr (.inr (.inr (.inr h)))⟩

/-- A command word runs its command, or raises IllegalCommand. -/
theorem runCommand_cases (w : Word) (s : State) :
    (∃ i, decode w = .ok i ∧ runCommand w s = exec i s) ∨
      (decode w = .error .illegal ∧ runCommand w s = .next (s.raise .illegalCommand)) := by
  cases h : decode w with
  | ok i => exact .inl ⟨i, rfl, by simp [runCommand, h]⟩
  | error e => cases e; exact .inr ⟨rfl, by simp [runCommand, h]⟩

/-- Every host access answers a next state. -/
theorem hostAccess_answers_next (a : Access) (s : State) : ∃ t, hostAccess a s = .next t := by
  cases a with
  | read off n => exact ⟨_, rfl⟩
  | write off d =>
    cases hf : busFault off d.size with
    | true => exact ⟨s.respond .busError, by simp [hostAccess, hf]⟩
    | false =>
      simp only [hostAccess, hf, Bool.false_eq_true, if_false]
      rcases memWrite_cases off d (s.respond .writeOk) hf with
        ⟨h, -⟩ | ⟨v, -, -, h⟩ | ⟨v, -, -, h⟩ | ⟨v, -, -, h⟩ | ⟨v, -, -, h⟩ | ⟨v, -, -, h⟩ | ⟨-, h⟩
      · exact ⟨_, h⟩
      · exact ⟨_, h⟩
      · rcases runCommand_cases v (s.respond .writeOk) with ⟨i, -, hr⟩ | ⟨-, hr⟩
        · obtain ⟨t, ht⟩ := exec_answers_next i (s.respond .writeOk)
          exact ⟨t, by rw [h, hr, ht]⟩
        · exact ⟨_, by rw [h, hr]⟩
      · exact ⟨_, h⟩
      · exact ⟨_, h⟩
      · exact ⟨_, h⟩
      · exact ⟨_, h⟩

/-- Every event answers a next state, but for a late answer while a request is outstanding. -/
theorem act_answers_next (e : Event) (s : State) (h : ∀ d, e = .lateResponse d → s.pend = none) : ∃ t, act e s = .next t := by
  cases e with
  | access a => exact hostAccess_answers_next a s
  | engine => exact ⟨_, rfl⟩
  | reset => exact ⟨_, rfl⟩
  | lateResponse d => exact ⟨s, by simp [act, takeLateResponse, h d rfl]⟩

/-- Everything a performed write can leave, `ok` being the state after it was answered OK (R55). -/
inductive WriteCase (off : BitVec 11) (d : Data) (ok t : State) : Prop
  | none (h : off = 0x000 ∨ off = 0x008 ∨ off = 0x014 ∨ place off = .digest ∨ place off = .table) (ht : t = ok)
  | ctrl (v : Word) (ho : off = 0x004) (hd : d = .b4 v) (ht : t = ok.setCtrl (v &&& ctrlMask))
  | command (v : Word) (i : Instr) (ho : off = 0x00C) (hd : d = .b4 v) (hi : decode v = .ok i) (ht : exec i ok = .next t)
  | illegal (v : Word) (ho : off = 0x00C) (hd : d = .b4 v) (hi : decode v = .error .illegal)
      (ht : t = ok.raise .illegalCommand)
  | crcAcc (v : Word) (ho : off = 0x010) (hd : d = .b4 v) (ht : t = ok.setCrcAcc v)
  | kdMlen (v : Word) (ho : off = 0x018) (hd : d = .b4 v) (hb : ok.busy = false) (ht : t = ok.setKdMlen v)
  | kdKlen (v : Word) (ho : off = 0x01C) (hd : d = .b4 v) (hb : ok.busy = false) (ht : t = ok.setKdKlen v)
  | store (hp : place off = .key ∨ place off = .msg) (hb : ok.busy = false) (ht : t = ok.storeBytes off d)
  | locked (hl : isLockable off) (hb : ok.busy = true) (ht : t = ok.setWign true)

theorem write_inversion (off : BitVec 11) (d : Data) (s t : State) (hf : busFault off d.size = false)
    (h : hostAccess (.write off d) s = .next t) : WriteCase off d (s.respond .writeOk) t := by
  simp only [hostAccess, hf, Bool.false_eq_true, if_false] at h
  have locked : ∀ w, isLockable off → (s.respond .writeOk).unlessLocked w = t →
      ((s.respond .writeOk).busy = false → WriteCase off d (s.respond .writeOk) w) →
      WriteCase off d (s.respond .writeOk) t := by
    intro w hl hw free
    cases hb : (s.respond .writeOk).busy with
    | false => rw [unlessLocked_free _ _ hb] at hw; exact hw ▸ free hb
    | true => rw [unlessLocked_busy _ _ hb] at hw; exact .locked hl hb hw.symm
  rcases memWrite_cases off d (s.respond .writeOk) hf with
    ⟨h', ho⟩ | ⟨v, ho, hd, h'⟩ | ⟨v, ho, hd, h'⟩ | ⟨v, ho, hd, h'⟩ | ⟨v, ho, hd, h'⟩ | ⟨v, ho, hd, h'⟩ | ⟨hp, h'⟩ <;>
    rw [h'] at h
  · cases h; exact .none ho rfl
  · cases h; exact .ctrl v ho hd rfl
  · rcases runCommand_cases v (s.respond .writeOk) with ⟨i, hi, hr⟩ | ⟨hi, hr⟩ <;> rw [hr] at h
    · exact .command v i ho hd hi h
    · cases h; exact .illegal v ho hd hi rfl
  · cases h; exact .crcAcc v ho hd rfl
  · cases h; exact locked _ (.inl ho) rfl (fun hb => .kdMlen v ho hd hb rfl)
  · cases h; exact locked _ (.inr (.inl ho)) rfl (fun hb => .kdKlen v ho hd hb rfl)
  · cases h
    refine locked _ ?_ rfl (fun hb => .store hp hb rfl)
    rw [place_key, place_msg] at hp
    exact hp.elim (fun h => .inr (.inr (.inl h))) (fun h => .inr (.inr (.inr h)))

/-- A read the block performs has a value of the size asked for. -/
theorem memRead_performed (off : BitVec 11) (n : Size) (s : State) (hf : busFault off n = false) :
    ∃ d, memRead off n s = some d ∧ d.size = n := by
  simp only [memRead, hf, Bool.false_eq_true, if_false]
  by_cases hr : off.toNat < 0x020
  · obtain ⟨rfl, h4⟩ := register_access off n hf hr
    rcases registerAt_register (off.toNat / 4) (by omega) with h | h | h | h | h | h | h | h <;>
      simp only [place, hr, if_true, h] <;> exact ⟨_, rfl, rfl⟩
  · rcases window_access off n hf hr with h | h | h | h <;> simp only [h]
    · exact ⟨_, rfl, readData_size _ _ _⟩
    · exact ⟨_, rfl, readData_size _ _ _⟩
    · exact ⟨_, rfl, readData_size _ _ _⟩
    · exact ⟨_, rfl, dataAt_size _ _ _⟩

/-- A CMD write of the word `w` is its command, after the write was answered OK. -/
theorem act_cmdWrite (w : Word) (s : State) : act (cmdWrite w) s = runCommand w (s.respond .writeOk) := by
  have hf : busFault cmdOffset (Data.b4 w).size = false := (by decide : busFault cmdOffset .four = false)
  have hp : place cmdOffset = .cmd := by decide
  simp only [act, cmdWrite, hostAccess, hf, Bool.false_eq_true, if_false, memWrite, hp, Data.word]

/-- What an accepted or discarded KD_START leaves (R96). -/
theorem kdStart_cases (s : State) :
    (s.busy = true ∧ exec .kdStart s = .next (s.setWign true)) ∨
    (s.busy = false ∧ Config.maxMessageSize < s.kdMlen.toNat ∧
      exec .kdStart s = .next (((s.setDone false).setErr 0).raise .lengthExceeded)) ∨
    (s.busy = false ∧ s.kdMlen.toNat ≤ Config.maxMessageSize ∧ s.kdKlen.toNat ≠ Config.keySize ∧
      exec .kdStart s = .next (((s.setDone false).setErr 0).raise .invalidKeyLength)) ∨
    (s.busy = false ∧ s.kdMlen.toNat ≤ Config.maxMessageSize ∧ s.kdKlen.toNat = Config.keySize ∧
      exec .kdStart s = .next ((s.setDone false).setErr 0).startDigest) := by
  cases hb : s.busy with
  | true => exact .inl ⟨rfl, by simp [exec, execKdStart, unlessLocked_busy, hb]⟩
  | false =>
    by_cases h1 : Config.maxMessageSize < s.kdMlen.toNat
    · exact .inr (.inl ⟨rfl, h1, by
        simp only [exec, execKdStart, unlessLocked_free _ _ hb, State.acceptStart, setErr_kdMlen, setDone_kdMlen, h1, if_true]⟩)
    · by_cases h2 : s.kdKlen.toNat = Config.keySize
      · exact .inr (.inr (.inr ⟨rfl, by omega, h2, by
          simp only [exec, execKdStart, unlessLocked_free _ _ hb, State.acceptStart, setErr_kdMlen, setDone_kdMlen,
            setErr_kdKlen, setDone_kdKlen, h1, h2, if_false, ne_eq, not_true_eq_false]⟩))
      · exact .inr (.inr (.inl ⟨rfl, by omega, h2, by
          simp only [exec, execKdStart, unlessLocked_free _ _ hb, State.acceptStart, setErr_kdMlen, setDone_kdMlen,
            setErr_kdKlen, setDone_kdKlen, h1, h2, if_false, if_true, ne_eq, not_false_eq_true]⟩))

/-- What the hash engine's step does (R102, R103, R105). -/
theorem engineStep_cases (s : State) :
    s.engineStep = s ∨ (∃ m, s.pend = some m ∧ s.kdState = .wait1 ∧ s.engineStep = s.firstResponse (Config.hash m)) ∨
      ∃ m, s.pend = some m ∧ s.kdState = .wait2 ∧ s.engineStep = s.secondResponse (Config.hash m) := by
  cases hp : s.pend with
  | none => left; simp [State.engineStep, hp]
  | some m =>
    cases hk : s.kdState with
    | idle => left; simp [State.engineStep, State.hashResponse, hp, hk]
    | wait1 => right; left; exact ⟨m, rfl, rfl, by simp [State.engineStep, State.hashResponse, hp, hk]⟩
    | wait2 => right; right; exact ⟨m, rfl, rfl, by simp [State.engineStep, State.hashResponse, hp, hk]⟩

end Sys2Proof.Machine
end

