-- ==== Sys2Proof/Laws/PerInstr.lean ====
section
/-! SUPPORT. The statement about the instructions as syntax that the host splits by constructor: the word of every
instruction is a well-formed command word (spec/30_encoding.md R71 to R74). -/

namespace Sys2Proof.Laws.EncodingLegal

/-- The word of the instruction is one of the 260 legal words. -/
def Statement (i : Instr) : Prop := commandWellFormed (encode i) = true

theorem nop : Statement .nop := by unfold Statement; decide

theorem crcInit : Statement .crcInit := by unfold Statement; decide

theorem crcByte (b : Byte) : Statement (.crcByte b) := by unfold Statement; revert b; decide

theorem kdStart : Statement .kdStart := by unfold Statement; decide

theorem statClr : Statement .statClr := by unfold Statement; decide

end Sys2Proof.Laws.EncodingLegal
end

