-- ==== Sys2Proof/Laws/Run.lean ====
section
/-! SUPPORT. Runs: one step at a time, and one run after another. -/

namespace Sys2Proof.Machine

@[simp] theorem run_zero (s : State) : run 0 s = .next s := rfl

/-- A run's first step. -/
theorem run_step (k : Nat) (s t : State) (h : step s = .next t) : run (k + 1) s = run k t := by
  have hc : Sys2Proof.core.step s = .next t := h
  simp only [run, Host.Core.run, hc]
  rfl

theorem run_fault (k : Nat) (s : State) (r : Fault) (h : step s = .fault r) : run (k + 1) s = .fault r := by
  have hc : Sys2Proof.core.step s = .fault r := h
  simp only [run, Host.Core.run, hc]
  rfl

theorem run_refused (k : Nat) (s : State) (r : Refusal) (h : step s = .refused r) : run (k + 1) s = .refused r := by
  have hc : Sys2Proof.core.step s = .refused r := h
  simp only [run, Host.Core.run, hc]
  rfl

/-- A run that ends in `t`, then the run from `t`. -/
theorem run_add (j k : Nat) (s t : State) (h : run j s = .next t) : run (j + k) s = run k t := by
  induction j generalizing s with
  | zero =>
    simp only [run_zero, Host.Outcome.next.injEq] at h
    rw [Nat.zero_add, h]
  | succ j ih =>
    rw [show j + 1 + k = (j + k) + 1 by omega]
    cases hs : step s with
    | next u => rw [run_step _ _ _ hs] at h ⊢; exact ih u h
    | fault r => rw [run_fault _ _ _ hs] at h; cases h
    | refused r => rw [run_refused _ _ _ hs] at h; cases h

end Sys2Proof.Machine
end

