-- ==== Sys2Proof/Laws/Step.lean ====
section
/-! SUPPORT. Everything a step can do, said once: `step_inversion`. A proof about every step takes the cases of `StepCase`
and never unfolds the machine. -/

namespace Sys2Proof.Machine

/-- What the event `e` can leave, `u` being the state with the event consumed and, if it is a host access, answered. -/
inductive StepCase (e : Event) (u t : State) : Prop
  | same (he : e ≠ .reset) (ht : t = u)
  | reset (he : e = .reset) (ht : t = u.resetEvent)
  | ctrl (v : Word) (he : e = .access (.write 0x004 (.b4 v))) (ht : t = u.setCtrl (v &&& ctrlMask))
  | seed (v : Word) (he : e = .access (.write 0x010 (.b4 v))) (ht : t = u.setCrcAcc v)
  | crcInit (w : Word) (he : e = cmdWrite w) (hw : decode w = .ok .crcInit) (ht : t = u.setCrcAcc 0xFFFFFFFF)
  | crcByte (w : Word) (b : Byte) (he : e = cmdWrite w) (hw : decode w = .ok (.crcByte b))
      (ht : t = u.setCrcAcc (crcFold u.t255fix u.crcAcc b))
  | statClr (w : Word) (he : e = cmdWrite w) (hw : decode w = .ok .statClr) (ht : t = u.acknowledge)
  | illegal (w : Word) (he : e = cmdWrite w) (hw : decode w = .error .illegal) (ht : t = u.raise .illegalCommand)
  | rejected (w : Word) (he : e = cmdWrite w) (hw : decode w = .ok .kdStart) (hb : u.busy = false) (c : CommandError)
      (hc : (c = .lengthExceeded ∧ Config.maxMessageSize < u.kdMlen.toNat) ∨
        (c = .invalidKeyLength ∧ u.kdMlen.toNat ≤ Config.maxMessageSize ∧ u.kdKlen.toNat ≠ Config.keySize))
      (ht : t = ((u.setDone false).setErr 0).raise c)
  | started (w : Word) (he : e = cmdWrite w) (hw : decode w = .ok .kdStart) (hb : u.busy = false)
      (hm : u.kdMlen.toNat ≤ Config.maxMessageSize) (hk : u.kdKlen.toNat = Config.keySize)
      (ht : t = ((u.setDone false).setErr 0).startDigest)
  | kdMlen (v : Word) (he : e = .access (.write 0x018 (.b4 v))) (hb : u.busy = false) (ht : t = u.setKdMlen v)
  | kdKlen (v : Word) (he : e = .access (.write 0x01C (.b4 v))) (hb : u.busy = false) (ht : t = u.setKdKlen v)
  | store (off : BitVec 11) (d : Data) (he : e = .access (.write off d)) (hb : u.busy = false)
      (hp : place off = .key ∨ place off = .msg) (ha : off.toNat % d.size.bytes = 0) (ht : t = u.storeBytes off d)
  | locked (hb : u.busy = true)
      (he : (∃ w, e = cmdWrite w ∧ decode w = .ok .kdStart) ∨ ∃ off d, e = .access (.write off d) ∧ isLockable off)
      (ht : t = u.setWign true)
  | first (m : ByteString) (he : e = .engine) (hp : u.pend = some m) (hk : u.kdState = .wait1)
      (ht : t = u.firstResponse (Config.hash m))
  | second (m : ByteString) (he : e = .engine) (hp : u.pend = some m) (hk : u.kdState = .wait2)
      (ht : t = u.secondResponse (Config.hash m))

/-- What a command leaves. -/
theorem exec_case (w : Word) (i : Instr) (u t : State) (hw : decode w = .ok i) (h : exec i u = .next t) :
    StepCase (cmdWrite w) u t := by
  cases i with
  | nop => cases h; exact .same (by simp [cmdWrite]) rfl
  | crcInit => cases h; exact .crcInit w rfl hw rfl
  | crcByte b => cases h; exact .crcByte w b rfl hw rfl
  | statClr => cases h; exact .statClr w rfl hw rfl
  | kdStart =>
    rcases kdStart_cases u with ⟨hb, hx⟩ | ⟨hb, hm, hx⟩ | ⟨hb, hm, hk, hx⟩ | ⟨hb, hm, hk, hx⟩ <;> rw [hx] at h <;> cases h
    · exact .locked hb (.inl ⟨w, rfl, hw⟩) rfl
    · exact .rejected w rfl hw hb _ (.inl ⟨rfl, hm⟩) rfl
    · exact .rejected w rfl hw hb _ (.inr ⟨rfl, hm, hk⟩) rfl
    · exact .started w rfl hw hb hm hk rfl

/-- What an event other than reset can leave. -/
theorem act_inversion (e : Event) (s t : State) (hr : e ≠ .reset) (h : act e s = .next t) :
    ∃ u, (u = s ∨ ∃ r, u = s.respond r) ∧ StepCase e u t := by
  cases e with
  | reset => exact absurd rfl hr
  | lateResponse d =>
    refine ⟨s, .inl rfl, .same (by simp) ?_⟩
    cases hp : s.pend with
    | none => simp only [act, takeLateResponse, hp, Host.Outcome.next.injEq] at h; exact h.symm
    | some m => simp [act, takeLateResponse, hp] at h
  | engine =>
    refine ⟨s, .inl rfl, ?_⟩
    have ht : s.engineStep = t := by simpa [act] using h
    rcases engineStep_cases s with hx | ⟨m, hp, hk, hx⟩ | ⟨m, hp, hk, hx⟩ <;> rw [hx] at ht
    · exact .same (by simp) ht.symm
    · exact .first m rfl hp hk ht.symm
    · exact .second m rfl hp hk ht.symm
  | access a =>
    cases a with
    | read off n => exact ⟨_, .inr ⟨_, rfl⟩, .same (by simp) (by simpa [act, hostAccess, eq_comm] using h)⟩
    | write off d =>
      cases hf : busFault off d.size with
      | true => exact ⟨_, .inr ⟨.busError, rfl⟩, .same (by simp) (by simpa [act, hostAccess, hf, eq_comm] using h)⟩
      | false =>
        refine ⟨_, .inr ⟨.writeOk, rfl⟩, ?_⟩
        cases write_inversion off d s t hf h with
        | none ho ht => exact .same (by simp) ht
        | ctrl v ho hd ht => subst ho hd; exact .ctrl v rfl ht
        | command v i ho hd hi ht => subst ho hd; exact exec_case v i _ t hi ht
        | illegal v ho hd hi ht => subst ho hd; exact .illegal v rfl hi ht
        | crcAcc v ho hd ht => subst ho hd; exact .seed v rfl ht
        | kdMlen v ho hd hb ht => subst ho hd; exact .kdMlen v rfl hb ht
        | kdKlen v ho hd hb ht => subst ho hd; exact .kdKlen v rfl hb ht
        | store hp hb ht => exact .store off d rfl hb hp (aligned_access off d.size hf) ht
        | locked hl hb ht => exact .locked hb (.inr ⟨off, d, rfl, hl⟩) ht

/-- Everything a step that answers a next state can do. -/
theorem step_inversion (s t : State) (h : step s = .next t) :
    (s.inputs = [] ∧ t = s) ∨
      ∃ e rest u, s.inputs = e :: rest ∧ (e ≠ .reset → s.errReserved = false) ∧
        (u = s.setInputs rest ∨ ∃ r, u = (s.setInputs rest).respond r) ∧ StepCase e u t := by
  rcases step_next s t h with h | ⟨rest, hi, ht⟩ | ⟨e, rest, hi, hr, he, ha⟩
  · exact .inl h
  · exact .inr ⟨.reset, rest, _, hi, fun h => absurd rfl h, .inl rfl, .reset rfl ht⟩
  · obtain ⟨u, hu, hc⟩ := act_inversion e _ t hr ha
    exact .inr ⟨e, rest, u, hi, fun _ => he, hu, hc⟩

/-- The state in which the event takes effect is the one before it, but for the events to come and the responses. -/
theorem consumed_fields (s u : State) (rest : List Event)
    (h : u = s.setInputs rest ∨ ∃ r, u = (s.setInputs rest).respond r) :
    u.ctrl = s.ctrl ∧ u.status = s.status ∧ u.crcAcc = s.crcAcc ∧ u.kdMlen = s.kdMlen ∧ u.kdKlen = s.kdKlen ∧
      u.mem = s.mem ∧ u.kdState = s.kdState ∧ u.h1 = s.h1 ∧ u.pend = s.pend ∧ u.requests = s.requests ∧
      u.inputs = rest := by
  rcases h with rfl | ⟨r, rfl⟩ <;> exact ⟨rfl, rfl, rfl, rfl, rfl, rfl, rfl, rfl, rfl, rfl, rfl⟩

end Sys2Proof.Machine
end

