-- ==== Sys2Proof/Tests/Slice0.lean ====
section
/-! SUPPORT. Tests with results taken from the spec (each names its source), the smoke test of the well-formedness checks,
and one witness `meets_<Name>` for every statement with hypotheses: a concrete state and operands that meet them, clause by
clause at the edges of the ranges where the statement has clauses. -/

namespace Sys2Proof.Tests

open Sys2Proof.Machine

/-! ## Small states -/

/-- Just after reset, with these events to come. -/
def loaded (es : List Event) : State := State.reset.setInputs es

/-- As `loaded`, with a value in STATUS. -/
def withStatus (st : Word) (es : List Event) : State := (loaded es).setStatus st

/-- A digest of the empty message is running, the first request outstanding. -/
def waiting1 (es : List Event) : State := (loaded es).startDigest

/-- The same after a first response of zeros. -/
def waiting2 (es : List Event) : State := (((loaded es).issue State.reset.s2).setKdState .wait2).setBusy true

/-- What the test looks at after one step; nothing for a fault or a refusal. -/
def after {α : Type} (s : State) (look : State → α) : Option α :=
  match step s with
  | .next t => some (look t)
  | .fault _ => none
  | .refused _ => none

/-- The same after two steps. -/
def after2 {α : Type} (s : State) (look : State → α) : Option α :=
  match run 2 s with
  | .next t => some (look t)
  | .fault _ => none
  | .refused _ => none

/-! ## Well-formedness: an ill-formed word for each check -/

theorem test_wellFormed_accepts : commandWellFormed 0x020000FF = true ∧ commandWellFormed 0x20000000 = true := by decide

/-- R74: OP `0x03` is not listed. -/
theorem test_wellFormed_opcode : opcodeListed 0x03000000 = false ∧ commandWellFormed 0x03000000 = false := by decide

/-- 42_control.md R116: RSV is not zero in `0x00000100`. -/
theorem test_wellFormed_reserved : reservedZero 0x00000100 = false ∧ commandWellFormed 0x00000100 = false := by decide

/-- 42_control.md R116: IMM8 is not zero in `0x00000001`, which is not NOP. -/
theorem test_wellFormed_immediate : immediateLegal 0x00000001 = false ∧ commandWellFormed 0x00000001 = false := by decide

/-- R79, R80: numbers out of range, a key of 31 bytes, a message of 257. -/
theorem test_hostStmt_refused :
    (HostStmt.crcByte 256).wellFormed = false ∧ (HostStmt.cmd 0x100000000).wellFormed = false ∧
    (HostStmt.sw 0x800 0).wellFormed = false ∧ (HostStmt.sh 0 0x10000).wellFormed = false ∧
    (HostStmt.sb 0 0x100).wellFormed = false ∧ (HostStmt.lw 0x800).wellFormed = false ∧
    (HostStmt.crcSeed 0x100000000).wellFormed = false ∧ (HostStmt.crcBytes [256]).wellFormed = false ∧
    (HostStmt.kdKey (List.replicate 31 0)).wellFormed = false := by decide

/-- R80: a message of 257 bytes is refused, one of 256 is not. -/
theorem test_hostStmt_messageLength :
    (HostStmt.kdMsg (List.replicate 257 0)).wellFormed = false ∧ (HostStmt.kdMsg (List.replicate 256 0)).wellFormed = true := by
  have h : ∀ n, (HostStmt.kdMsg (List.replicate n 0)).wellFormed = decide (n ≤ 256) := fun n => by
    simp [HostStmt.wellFormed, Config.maxMessageSize, fitsByte]
  exact ⟨(h 257).trans (by decide), (h 256).trans (by decide)⟩

/-! ## Decoding, from the words of R72 written bit by bit -/

theorem test_decode_nop : decode 0b00000000000000000000000000000000 = .ok .nop := by decide
theorem test_decode_crcInit : decode 0b00000001000000000000000000000000 = .ok .crcInit := by decide
theorem test_decode_crcByte : decode 0b00000010000000000000000000110001 = .ok (.crcByte 0x31) := by decide
theorem test_decode_kdStart : decode 0b00010000000000000000000000000000 = .ok .kdStart := by decide
theorem test_decode_statClr : decode 0b00100000000000000000000000000000 = .ok .statClr := by decide

/-- 95_test_vectors.md X-2, X-3, X-5, X-6. -/
theorem test_decode_illegal :
    [0x00000001, 0x02000100, 0x03000000, 0x11000000, 0x21000000, 0xFF000000, 0x10000001].map decode =
      List.replicate 7 (.error .illegal) := by decide

/-- The host's two entries: the table word of CRC_BYTE `0xFF` (X-4), and a word that no row has. -/
theorem test_decodeTableWord :
    decodeTableWord 32 0x020000FF = some (.crcByte 0xFF) ∧ decodeTableWord 32 0x02000100 = none := by decide

/-- R87 of R72's word, as the first event after reset and a seed write. -/
theorem test_withFetchWord :
    after ((State.reset.setCrcAcc 0x12345678).withFetchWord 32 0x01000000) (fun t => (t.crcAcc, t.responses, t.inputs)) =
      some (0xFFFFFFFF, [.writeOk], []) := by decide

/-! ## The CRC unit -/

/-- Entries 0..31 of the table of R83. -/
def r83Part0 : List Word :=
  [0x00000000, 0x77073096, 0xEE0E612C, 0x990951BA, 0x076DC419, 0x706AF48F, 0xE963A535, 0x9E6495A3,
   0x0EDB8832, 0x79DCB8A4, 0xE0D5E91E, 0x97D2D988, 0x09B64C2B, 0x7EB17CBD, 0xE7B82D07, 0x90BF1D91,
   0x1DB71064, 0x6AB020F2, 0xF3B97148, 0x84BE41DE, 0x1ADAD47D, 0x6DDDE4EB, 0xF4D4B551, 0x83D385C7,
   0x136C9856, 0x646BA8C0, 0xFD62F97A, 0x8A65C9EC, 0x14015C4F, 0x63066CD9, 0xFA0F3D63, 0x8D080DF5]

/-- Entries 32..63 of the table of R83. -/
def r83Part1 : List Word :=
  [0x3B6E20C8, 0x4C69105E, 0xD56041E4, 0xA2677172, 0x3C03E4D1, 0x4B04D447, 0xD20D85FD, 0xA50AB56B,
   0x35B5A8FA, 0x42B2986C, 0xDBBBC9D6, 0xACBCF940, 0x32D86CE3, 0x45DF5C75, 0xDCD60DCF, 0xABD13D59,
   0x26D930AC, 0x51DE003A, 0xC8D75180, 0xBFD06116, 0x21B4F4B5, 0x56B3C423, 0xCFBA9599, 0xB8BDA50F,
   0x2802B89E, 0x5F058808, 0xC60CD9B2, 0xB10BE924, 0x2F6F7C87, 0x58684C11, 0xC1611DAB, 0xB6662D3D]

/-- Entries 64..95 of the table of R83. -/
def r83Part2 : List Word :=
  [0x76DC4190, 0x01DB7106, 0x98D220BC, 0xEFD5102A, 0x71B18589, 0x06B6B51F, 0x9FBFE4A5, 0xE8B8D433,
   0x7807C9A2, 0x0F00F934, 0x9609A88E, 0xE10E9818, 0x7F6A0DBB, 0x086D3D2D, 0x91646C97, 0xE6635C01,
   0x6B6B51F4, 0x1C6C6162, 0x856530D8, 0xF262004E, 0x6C0695ED, 0x1B01A57B, 0x8208F4C1, 0xF50FC457,
   0x65B0D9C6, 0x12B7E950, 0x8BBEB8EA, 0xFCB9887C, 0x62DD1DDF, 0x15DA2D49, 0x8CD37CF3, 0xFBD44C65]

/-- Entries 96..127 of the table of R83. -/
def r83Part3 : List Word :=
  [0x4DB26158, 0x3AB551CE, 0xA3BC0074, 0xD4BB30E2, 0x4ADFA541, 0x3DD895D7, 0xA4D1C46D, 0xD3D6F4FB,
   0x4369E96A, 0x346ED9FC, 0xAD678846, 0xDA60B8D0, 0x44042D73, 0x33031DE5, 0xAA0A4C5F, 0xDD0D7CC9,
   0x5005713C, 0x270241AA, 0xBE0B1010, 0xC90C2086, 0x5768B525, 0x206F85B3, 0xB966D409, 0xCE61E49F,
   0x5EDEF90E, 0x29D9C998, 0xB0D09822, 0xC7D7A8B4, 0x59B33D17, 0x2EB40D81, 0xB7BD5C3B, 0xC0BA6CAD]

/-- Entries 128..159 of the table of R83. -/
def r83Part4 : List Word :=
  [0xEDB88320, 0x9ABFB3B6, 0x03B6E20C, 0x74B1D29A, 0xEAD54739, 0x9DD277AF, 0x04DB2615, 0x73DC1683,
   0xE3630B12, 0x94643B84, 0x0D6D6A3E, 0x7A6A5AA8, 0xE40ECF0B, 0x9309FF9D, 0x0A00AE27, 0x7D079EB1,
   0xF00F9344, 0x8708A3D2, 0x1E01F268, 0x6906C2FE, 0xF762575D, 0x806567CB, 0x196C3671, 0x6E6B06E7,
   0xFED41B76, 0x89D32BE0, 0x10DA7A5A, 0x67DD4ACC, 0xF9B9DF6F, 0x8EBEEFF9, 0x17B7BE43, 0x60B08ED5]

/-- Entries 160..191 of the table of R83. -/
def r83Part5 : List Word :=
  [0xD6D6A3E8, 0xA1D1937E, 0x38D8C2C4, 0x4FDFF252, 0xD1BB67F1, 0xA6BC5767, 0x3FB506DD, 0x48B2364B,
   0xD80D2BDA, 0xAF0A1B4C, 0x36034AF6, 0x41047A60, 0xDF60EFC3, 0xA867DF55, 0x316E8EEF, 0x4669BE79,
   0xCB61B38C, 0xBC66831A, 0x256FD2A0, 0x5268E236, 0xCC0C7795, 0xBB0B4703, 0x220216B9, 0x5505262F,
   0xC5BA3BBE, 0xB2BD0B28, 0x2BB45A92, 0x5CB36A04, 0xC2D7FFA7, 0xB5D0CF31, 0x2CD99E8B, 0x5BDEAE1D]

/-- Entries 192..223 of the table of R83. -/
def r83Part6 : List Word :=
  [0x9B64C2B0, 0xEC63F226, 0x756AA39C, 0x026D930A, 0x9C0906A9, 0xEB0E363F, 0x72076785, 0x05005713,
   0x95BF4A82, 0xE2B87A14, 0x7BB12BAE, 0x0CB61B38, 0x92D28E9B, 0xE5D5BE0D, 0x7CDCEFB7, 0x0BDBDF21,
   0x86D3D2D4, 0xF1D4E242, 0x68DDB3F8, 0x1FDA836E, 0x81BE16CD, 0xF6B9265B, 0x6FB077E1, 0x18B74777,
   0x88085AE6, 0xFF0F6A70, 0x66063BCA, 0x11010B5C, 0x8F659EFF, 0xF862AE69, 0x616BFFD3, 0x166CCF45]

/-- Entries 224..255 of the table of R83. -/
def r83Part7 : List Word :=
  [0xA00AE278, 0xD70DD2EE, 0x4E048354, 0x3903B3C2, 0xA7672661, 0xD06016F7, 0x4969474D, 0x3E6E77DB,
   0xAED16A4A, 0xD9D65ADC, 0x40DF0B66, 0x37D83BF0, 0xA9BCAE53, 0xDEBB9EC5, 0x47B2CF7F, 0x30B5FFE9,
   0xBDBDF21C, 0xCABAC28A, 0x53B39330, 0x24B4A3A6, 0xBAD03605, 0xCDD70693, 0x54DE5729, 0x23D967BF,
   0xB3667A2E, 0xC4614AB8, 0x5D681B02, 0x2A6F2B94, 0xB40BBE37, 0xC30C8EA1, 0x5A05DF1B, 0x00000000]

/-- 32 entries of the reference table, from entry `i` up. -/
def entries (i : Nat) : List Word := (List.range 32).map (fun k => table false (BitVec.ofNat 8 (i + k)))

/-- Every entry of the table of R83. -/
theorem test_table_r83 :
    entries 0 = r83Part0 ∧ entries 32 = r83Part1 ∧ entries 64 = r83Part2 ∧ entries 96 = r83Part3 ∧ entries 128 = r83Part4 ∧
    entries 160 = r83Part5 ∧ entries 192 = r83Part6 ∧ entries 224 = r83Part7 := by decide

/-- R82: the fixed entry 255. -/
theorem test_table_fixed : table true 0xFF = 0x2D02EF8D := by decide

/-- 95_test_vectors.md C-B1. -/
theorem test_crcByte_one :
    after (loaded [cmdWrite 0x02000031]) (fun t => t.crcAcc) = some 0x7C231048 := by decide

/-- 95_test_vectors.md C-D9: index `0xFF` with the reference table and with the full one. -/
theorem test_crcByte_defect :
    after ((loaded [cmdWrite 0x02000010]).setCrcAcc 0xDEADBEEF) (fun t => t.crcAcc) = some 0x00DEADBE ∧
    after (((loaded [cmdWrite 0x02000010]).setCrcAcc 0xDEADBEEF).setCtrl 1) (fun t => t.crcAcc) = some 0x2DDC4233 := by
  decide

/-- 95_test_vectors.md C-T3: "123456789". -/
theorem test_checksum_standard :
    checksum false 0xFFFFFFFF [0x31, 0x32, 0x33, 0x34, 0x35, 0x36, 0x37, 0x38, 0x39] = 0xCBF43926 := by decide

/-- 95_test_vectors.md C-S4, C-S10: both tables. -/
theorem test_checksum_tables :
    checksum false 0xFFFFFFFF [0x00, 0xFF] = 0xFFFF0000 ∧ checksum true 0xFFFFFFFF [0x00, 0xFF] = 0x6CDBFD72 ∧
    checksum false 0x00000000 [0xFF] = 0xFFFFFFFF ∧ checksum true 0x00000000 [0xFF] = 0xD2FD1072 := by decide

/-- 95_test_vectors.md C-C2: reference chaining. -/
theorem test_checksum_chained :
    checksum false (checksum false 0xFFFFFFFF [0x31, 0x32, 0x33, 0x34]) [0x35, 0x36, 0x37, 0x38, 0x39] = 0xF22931C4 := by
  decide

/-- 40_crc32.md R87: CRC_INIT, then a CRC_RESULT read. -/
theorem test_crcInit :
    after2 ((loaded [cmdWrite 0x01000000, resultRead]).setCrcAcc 0) (fun t => t.responses) =
      some [.data (.b4 0x00000000), .writeOk] := by decide

/-! ## The keyed digest -/

/-- 95_test_vectors.md K-E7: both checks fail, from DONE = 1. -/
theorem test_kdStart_rejected :
    after (((withStatus 0x02 [cmdWrite 0x10000000]).setKdMlen 300).setKdKlen 31)
      (fun t => (t.status, t.requests, t.kdState)) = some (0x10, [], .idle) := by decide

/-- 95_test_vectors.md K-E8 and K-R1, with a key that is zero but for its byte 31: S1 is the key, then "abc". -/
theorem test_kdStart_started :
    after (((withStatus 0x02 [cmdWrite 0x10000000]).setKdMlen 3).setMem
        ((State.reset.mem.write 0x11F 0x1F).writeBytes 0x200 [0x61, 0x62, 0x63, 0x64]))
      (fun t => (t.status, t.requests, t.kdState)) =
      some (0x01, [List.replicate 31 0x00 ++ [0x1F, 0x61, 0x62, 0x63]], .wait1) := by decide

/-- 95_test_vectors.md K-B1, K-B3: the store is lost, the previous tag is read. -/
theorem test_busy_store :
    after2 (waiting1 [.access (.write 0x200 (.b1 0x7A)), .access (.read 0x140 .four)])
      (fun t => (t.mem.read 0x200, t.status, t.responses)) =
      some (0x00, 0x05, [.data (.b4 0x00000000), .writeOk]) := by decide

/-! ## Control, decoding and bus errors -/

/-- 95_test_vectors.md X-1. -/
theorem test_nop : after (withStatus 0x36 [cmdWrite 0x00000000]) (fun t => (t.status, t.crcAcc)) = some (0x36, 0xFFFFFFFF) := by
  decide

/-- 95_test_vectors.md X-7. -/
theorem test_statClr : after (withStatus 0x36 [cmdWrite 0x20000000]) (fun t => t.status) = some 0x00 := by decide

/-- 95_test_vectors.md K-B5: BUSY stays. -/
theorem test_statClr_busy : after (withStatus 0x35 [cmdWrite 0x20000000]) (fun t => t.status) = some 0x01 := by decide

/-- 95_test_vectors.md X-3: ERR 3, CRC_ACC unchanged. -/
theorem test_illegal :
    after (loaded [cmdWrite 0x02000100]) (fun t => (t.status, t.crcAcc, t.responses)) =
      some (0x30, 0xFFFFFFFF, [.writeOk]) := by decide

/-- 95_test_vectors.md X-8, X-9, X-10, X-11, X-12, C-T10: BusError, each with nothing done. -/
theorem test_busError :
    ([.read 0x000 .one, .write 0x00C (.b2 0x0100), .read 0x020 .four, .write 0x120 (.b4 1), .read 0x3FC .four,
      .write 0x101 (.b2 0xBEEF), .read 0x405 .two] : List Access).map
        (fun a => after (loaded [.access a]) (fun t => (t.responses, t.setResponses []))) =
      List.replicate 7 (some ([.busError], State.reset)) := by decide

/-- 95_test_vectors.md X-13. -/
theorem test_halfword_store :
    after2 (loaded [.access (.write 0x102 (.b2 0xBEEF)), .access (.read 0x100 .four)])
      (fun t => (t.responses, t.mem.read 0x102, t.mem.read 0x103)) =
      some ([.data (.b4 0xBEEF0000), .writeOk], 0xEF, 0xBE) := by decide

/-- 95_test_vectors.md X-14, X-16, X-17. -/
theorem test_register_writes :
    after2 (loaded [.access (.write 0x000 (.b4 5)), .access (.read 0x000 .four)]) (fun t => t.responses) =
      some [.data (.b4 0x4E534331), .writeOk] ∧
    after2 (loaded [.access (.write 0x004 (.b4 0xFFFFFFFF)), .access (.read 0x004 .four)]) (fun t => t.responses) =
      some [.data (.b4 0x00000001), .writeOk] ∧
    after2 (loaded [.access (.write 0x014 (.b4 0)), .access (.read 0x014 .four)]) (fun t => t.responses) =
      some [.data (.b4 0x00000000), .writeOk] := by decide

/-- 95_test_vectors.md C-T8, C-T9, C-T11. -/
theorem test_table_window :
    readResponse 0x7FC .one (State.reset.setCtrl 1) = .data (.b1 0x8D) ∧
    readResponse 0x7FE .two (State.reset.setCtrl 1) = .data (.b2 0x2D02) ∧
    readResponse 0x404 .two State.reset = .data (.b2 0x3096) ∧ readResponse 0x406 .two State.reset = .data (.b2 0x7707) ∧
    after2 (loaded [.access (.write 0x400 (.b4 1)), .access (.read 0x400 .four)]) (fun t => t.responses) =
      some [.data (.b4 0x00000000), .writeOk] := by decide

/-- 95_test_vectors.md X-18: the registers after reset. -/
theorem test_reset_registers :
    ([0x000, 0x004, 0x008, 0x00C, 0x010, 0x014, 0x018, 0x01C] : List (BitVec 11)).map (fun off => memRead off .four State.reset) =
      [0x4E534331, 0, 0, 0, 0xFFFFFFFF, 0, 0, 0x20].map (fun v => some (.b4 v)) := by decide

/-- The storage keeps its canonical form: a byte of `0x00` lists nothing, whatever was there (R43). -/
theorem test_memory_canonical :
    (Memory.empty.writeBytes 0x200 [1, 2, 3]).cells = [(0x200, 1), (0x201, 2), (0x202, 3)] ∧
    (((Memory.empty.write 0x202 3).write 0x200 1).write 0x202 0).cells = [(0x200, 1)] ∧
    ((Memory.empty.write 0x200 1).write 0x200 0) = Memory.empty ∧
    (⟨[(0x201, 1), (0x200, 1)]⟩ : Memory).wf = false ∧ (⟨[(0x200, 0)]⟩ : Memory).wf = false := by decide

/-- 30_encoding.md R80: `kd.key` and `kd.msg` as the accesses of program P4 (its message by bytes, log entry 10). -/
theorem test_pseudo_instructions :
    (HostStmt.kdKey (List.range 32)).accesses.take 2 = [.write 0x100 (.b4 0x03020100), .write 0x104 (.b4 0x07060504)] ∧
    (HostStmt.kdMsg [0x61, 0x62]).accesses =
      [.write 0x200 (.b1 0x61), .write 0x201 (.b1 0x62), .write 0x018 (.b4 2)] ∧
    HostStmt.kdTag.accesses.getLast? = some (.read 0x15C .four) := by decide

/-- 41_keyed_digest.md R114, on the STATUS values of 95_test_vectors.md K-E1, K-E4, K-E8 and of P4 at loop exit. -/
theorem test_callResult :
    callResult 0x10 = some (.error .lengthExceeded) ∧ callResult 0x20 = some (.error .invalidKeyLength) ∧
    callResult 0x01 = none ∧ callResult 0x06 = some (.ok ()) := ⟨rfl, rfl, rfl, rfl⟩

/-- 40_crc32.md R90 and 41_keyed_digest.md R114: the accesses of the two calls, counted and at their ends. -/
theorem test_callPrograms :
    (checksumProgram 0 [0x61]).flatMap HostStmt.accesses =
      [.write 0x010 (.b4 0), .write 0x00C (.b4 0x02000061), .read 0x014 .four] ∧
    ((keyedDigestProgram (List.range 32) [0x61] 0).flatMap HostStmt.accesses).length = 8 + 2 + 1 + 1 + 8 := by decide

/-! ## Witnesses: the hypotheses of the statements can be met -/

/-- Reset during a digest, and a host access after it. -/
theorem meets_ResetEventRestoresEveryElement :
    (waiting2 [.reset, statusRead]).inputs = .reset :: .access (.read 0x008 .four) :: [] := by decide

theorem meets_StepRunsDecodedCommand :
    (loaded [cmdWrite 0x02000031]).errReserved = false ∧
    (loaded [cmdWrite 0x02000031]).inputs = .access (.write 0x00C (.b4 0x02000031)) :: [] ∧
    decode 0x02000031 = .ok (.crcByte 0x31) := by decide

theorem meets_DecodeFollowsOpcodeTable :
    ⟨"CRC_BYTE", 0xFFFFFF00, 0x02000000⟩ ∈ opcodeRows ∧ (0x020000FF : Word) &&& 0xFFFFFF00 = 0x02000000 := by decide

theorem meets_EncodeDecodeAgree : decode 0x020000FF = .ok (.crcByte 0xFF) := by decide

theorem meets_IllegalWordRaisesIllegalCommand :
    (withStatus 0x01 [cmdWrite 0x02000100]).errReserved = false ∧
    (withStatus 0x01 [cmdWrite 0x02000100]).inputs = cmdWrite 0x02000100 :: [] ∧ ∀ i, encode i ≠ 0x02000100 := by
  refine ⟨by decide, by decide, fun i => ?_⟩
  cases i with
  | crcByte b => revert b; decide
  | _ => decide

theorem meets_CrcInitSetsAccumulator : (waiting1 []).errReserved = false := by decide

theorem meets_CrcByteFoldsOneByte : ∃ t, exec (.crcByte 0xFF) (waiting1 []) = .next t := ⟨_, rfl⟩

/-- NOP, CRC_INIT, CRC_BYTE and STAT_CLR; KD_START while not BUSY and while BUSY. -/
theorem meets_CommandFrames :
    (∃ t, exec .nop (loaded []) = .next t) ∧ (∃ t, exec .crcInit (loaded []) = .next t) ∧
    (∃ t, exec (.crcByte 0xFF) (loaded []) = .next t) ∧ (∃ t, exec .statClr (withStatus 0x37 []) = .next t) ∧
    (∃ t, exec .kdStart (loaded []) = .next t) ∧ (loaded []).busy = false ∧
    (∃ t, exec .kdStart (waiting1 []) = .next t) ∧ (waiting1 []).busy = true :=
  ⟨⟨_, rfl⟩, ⟨_, rfl⟩, ⟨_, rfl⟩, ⟨_, rfl⟩, ⟨_, rfl⟩, by decide, ⟨_, rfl⟩, by decide⟩

theorem meets_TableFollowsBuild : (254 : Byte).toNat ≤ 254 := by decide

/-- An index of `0xFF`; an input byte `0xFF`; an input byte `0x00`. -/
theorem meets_DefectChangesExactlyIndex255 :
    ((loaded []).setCrcAcc 0x12345678).crcAcc.extractLsb' 0 8 ^^^ 0x87#8 = 0xFF#8 ∧
    ((loaded []).setCrcAcc 0x00000000).crcAcc.extractLsb' 0 8 = 0x00#8 ∧
    (loaded []).crcAcc.extractLsb' 0 8 = 0xFF#8 := by decide

/-- Two folds with a read and an engine step between them. -/
theorem meets_ChecksumSequence :
    let es := [cmdWrite 0x02000031, .access (.read 0x008 .four), .engine, cmdWrite 0x02000000]
    let s := loaded (seedWrite 0 :: (es ++ resultRead :: [.reset]))
    s.errReserved = false ∧ es.all Event.isOrdinary = true ∧ es.filter Event.writesCrc = foldEvents [0x31, 0x00] ∧
    s.inputs = seedWrite 0 :: (es ++ resultRead :: [.reset]) := by decide

theorem meets_ReferenceChaining :
    let es := seedWrite 5 :: (foldEvents [0x31] ++ resultRead :: seedWrite (checksum (loaded []).t255fix 5 [0x31]) ::
      (foldEvents [0x35] ++ resultRead :: []))
    (loaded es).errReserved = false ∧ (loaded es).inputs =
      seedWrite 5 :: (foldEvents [0x31] ++ resultRead :: seedWrite (checksum (loaded es).t255fix 5 [0x31]) ::
        (foldEvents [0x35] ++ resultRead :: [])) := by decide

theorem meets_StreamingChecksum :
    let es := seedWrite 5 :: (foldEvents [0x31] ++ resultRead :: (foldEvents [] ++ resultRead :: []))
    (loaded es).errReserved = false ∧ (loaded es).inputs = es := by decide

/-- The longest message, and the shortest. -/
theorem meets_KdStartStartsDigest :
    (∃ s : State, s.busy = false ∧ s.kdMlen.toNat = 256 ∧ s.kdKlen = 32) ∧
    ∃ s : State, s.busy = false ∧ s.kdMlen.toNat = 0 ∧ s.kdKlen = 32 :=
  ⟨⟨(loaded []).setKdMlen 256, by decide⟩, ⟨loaded [], by decide⟩⟩

/-- One byte too many, with a legal key length and with an illegal one. -/
theorem meets_KdStartLengthExceeded :
    (∃ s : State, s.busy = false ∧ s.kdMlen.toNat = 257 ∧ s.kdKlen = 32) ∧
    ∃ s : State, s.busy = false ∧ s.kdMlen.toNat = 257 ∧ s.kdKlen = 31 :=
  ⟨⟨(loaded []).setKdMlen 257, by decide⟩, ⟨((loaded []).setKdMlen 257).setKdKlen 31, by decide⟩⟩

/-- The longest message with a key one byte short, and with one byte too many. -/
theorem meets_KdStartInvalidKeyLength :
    (∃ s : State, s.busy = false ∧ s.kdMlen.toNat = 256 ∧ s.kdKlen = 31) ∧
    ∃ s : State, s.busy = false ∧ s.kdMlen.toNat = 256 ∧ s.kdKlen = 33 :=
  ⟨⟨((loaded []).setKdMlen 256).setKdKlen 31, by decide⟩, ⟨((loaded []).setKdMlen 256).setKdKlen 33, by decide⟩⟩

theorem meets_KdStartDiscardedWhileBusy : (waiting1 []).busy = true := by decide

theorem meets_FirstHashResponse :
    (waiting1 [.engine]).errReserved = false ∧ (waiting1 [.engine]).kdState = .wait1 ∧
    (waiting1 [.engine]).pend = some (List.replicate 32 0) ∧ (waiting1 [.engine]).inputs = .engine :: [] := by decide

theorem meets_SecondHashResponse :
    (waiting2 [.engine]).errReserved = false ∧ (waiting2 [.engine]).mem.wf = true ∧ (waiting2 [.engine]).kdState = .wait2 ∧
    (waiting2 [.engine]).pend = some (List.replicate 64 0) ∧ (waiting2 [.engine]).inputs = .engine :: [] := by decide

/-- The engine's step, and a late answer, with no request outstanding. -/
theorem meets_UnexpectedResponseIgnored (d : Bytes32) :
    ((loaded [.engine]).errReserved = false ∧ (loaded [.engine]).pend = none ∧ (loaded [.engine]).inputs = .engine :: []) ∧
    (loaded [.lateResponse d]).errReserved = false ∧ (loaded [.lateResponse d]).pend = none ∧
      (loaded [.lateResponse d]).inputs = .lateResponse d :: [] :=
  ⟨⟨by decide, rfl, rfl⟩, by rw [show (loaded [.lateResponse d]).errReserved = (loaded []).errReserved from rfl]; decide, rfl, rfl⟩

theorem meets_BrokenResetDutyRefused :
    let d : Bytes32 := Vector.replicate 32 0
    (waiting1 [.lateResponse d]).errReserved = false ∧
    (waiting1 [.lateResponse d]).pend = some (List.replicate 32 0) ∧
    (waiting1 [.lateResponse d]).inputs = .lateResponse d :: [] := by decide

/-- The schedule of a whole digest, with an access before and after the first response. -/
def digestEvents : List Event :=
  cmdWrite (encode .kdStart) :: ([statusRead] ++ .engine :: ([cmdWrite 0x02000031] ++ .engine :: [statusRead]))

theorem meets_KeyedDigestEndToEnd :
    let s := (loaded digestEvents).setKdMlen 256
    s.errReserved = false ∧ s.mem.wf = true ∧ s.busy = false ∧ s.kdMlen.toNat ≤ 256 ∧ s.kdKlen = 32 ∧
    [statusRead].all Event.isAccess = true ∧ [cmdWrite 0x02000031].all Event.isAccess = true ∧
    s.inputs = cmdWrite (encode .kdStart) :: ([statusRead] ++ .engine :: ([cmdWrite 0x02000031] ++ .engine :: [statusRead])) := by
  decide

/-- Two states that differ in CRC_ACC, in CTRL and in a message byte past the end. -/
theorem meets_TagDependsOnKeyAndMessageOnly :
    let s := (loaded digestEvents).setKdMlen 1
    let s' := ((s.setCrcAcc 7).setCtrl 1).setMem (s.mem.write 0x201 9)
    s'.errReserved = false ∧ s.mem.wf = true ∧ s'.mem.wf = true ∧ s.busy = false ∧ s'.busy = false ∧ s.kdMlen.toNat ≤ 256 ∧
    s.kdKlen = 32 ∧ s'.kdMlen = s.kdMlen ∧ s'.kdKlen = 32 ∧
    (∀ i, i < 32 → s'.mem.read (0x100 + i) = s.mem.read (0x100 + i)) ∧
    (∀ i, i < s.kdMlen.toNat → s'.mem.read (0x200 + i) = s.mem.read (0x200 + i)) ∧
    s'.inputs = cmdWrite (encode .kdStart) :: ([statusRead] ++ .engine :: ([cmdWrite 0x02000031] ++ .engine :: [statusRead])) := by
  decide

/-- No request, S1, and S2. -/
theorem meets_RequestsOnlyFromStartAndFirstResponse :
    (∃ t, step (loaded [.engine]) = .next t) ∧ (∃ t, step (loaded [cmdWrite (encode .kdStart)]) = .next t) ∧
    ∃ t, step (waiting1 [.engine]) = .next t := ⟨⟨_, rfl⟩, ⟨_, rfl⟩, ⟨_, rfl⟩⟩

theorem meets_HostCannotDisturbRunningDigest :
    let es := [cmdWrite (encode .kdStart), .access (.write 0x100 (.b4 1)), cmdWrite (encode .statClr)]
    (waiting1 (es ++ [.engine])).errReserved = false ∧ (waiting1 (es ++ [.engine])).busy = true ∧
    es.all Event.isAccess = true ∧ (waiting1 (es ++ [.engine])).inputs = es ++ [.engine] := by decide

theorem meets_TwoEngineStepsEndTheDigest :
    let s := waiting1 [statusRead, .engine, statusRead, .engine]
    s.Inv ∧ s.inputs.all Event.isOrdinary = true ∧ 2 ≤ s.inputs.count .engine := by decide

/-- Each cause of BusError at the edges of its range, and accesses next to them that are performed. -/
theorem meets_BusErrorExactlyForItsCauses :
    (([(0x101, .two), (0x7FF, .four), (0x020, .one), (0x0FC, .four), (0x120, .two), (0x13F, .one), (0x160, .four), (0x1FF, .one),
      (0x300, .four), (0x3FF, .one), (0x000, .one), (0x01E, .two)] : List (BitVec 11 × Size)).all
        (fun p => decide (accessRejected p.1 p.2))) = true ∧
    (([(0x000, .four), (0x01C, .four), (0x100, .one), (0x11E, .two), (0x140, .four), (0x15F, .one), (0x200, .two), (0x2FF, .one),
      (0x400, .four), (0x7FF, .one)] : List (BitVec 11 × Size)).all (fun p => decide (¬ accessRejected p.1 p.2))) = true ∧
    (loaded [.access (.read 0x101 .two)]).inputs = .access (.read 0x101 .two) :: [] ∧
    (loaded [.access (.write 0x11E (.b2 1))]).inputs = .access (.write 0x11E (.b2 1)) :: [] ∧
    (loaded [.access (.read 0x101 .two)]).errReserved = false := by decide

/-- Every location of R54, the windows at their first and last byte; an offset lies in one location only. -/
theorem meets_MemReadStep :
    (([(0x000, .four), (0x004, .four), (0x008, .four), (0x00C, .four), (0x010, .four), (0x014, .four), (0x018, .four),
      (0x01C, .four), (0x100, .four), (0x11F, .one), (0x140, .two), (0x15F, .one), (0x200, .four), (0x2FF, .one), (0x400, .four),
      (0x7FF, .one)] : List (BitVec 11 × Size)).all (fun p => decide (¬ accessRejected p.1 p.2))) = true ∧
    accessRejected 0x020 .four ∧ (loaded [.access (.read 0x7FF .one)]).inputs = .access (.read 0x7FF .one) :: [] ∧
    (loaded [.access (.read 0x7FF .one)]).errReserved = false := by decide

/-- Every location of R55 at the edges of its range, while not BUSY and while BUSY; a legal command word and an illegal one. -/
theorem meets_MemWriteStep :
    (([(0x000, .four), (0x004, .four), (0x008, .four), (0x00C, .four), (0x010, .four), (0x014, .four), (0x018, .four),
      (0x01C, .four), (0x100, .four), (0x11F, .one), (0x140, .two), (0x15F, .one), (0x200, .four), (0x2FF, .one), (0x400, .four),
      (0x7FF, .one)] : List (BitVec 11 × Size)).all (fun p => decide (¬ accessRejected p.1 p.2))) = true ∧
    accessRejected 0x3FF .one ∧ (isLockable 0x018 ∧ isLockable 0x01C ∧ isLockable 0x11F ∧ isLockable 0x2FF ∧ ¬ isLockable 0x140) ∧
    decode 0x10000000 = .ok .kdStart ∧ decode 0x10000001 = .error .illegal ∧
    (waiting1 [.access (.write 0x2FF (.b1 1))]).busy = true ∧ (waiting1 [.access (.write 0x2FF (.b1 1))]).errReserved = false ∧
    (loaded [.access (.write 0x2FF (.b1 1))]).busy = false ∧ (loaded [.access (.write 0x2FF (.b1 1))]).mem.wf = true ∧
    (loaded [.access (.write 0x2FF (.b1 1))]).inputs = .access (.write 0x2FF (.b1 1)) :: [] := by decide

/-- A second KD_START, and a store to the last byte of MSG. -/
theorem meets_LockedWritesAreDiscarded :
    (waiting2 [cmdWrite (encode .kdStart)]).errReserved = false ∧ (waiting2 [cmdWrite (encode .kdStart)]).busy = true ∧
    (waiting2 [cmdWrite (encode .kdStart)]).inputs = cmdWrite (encode .kdStart) :: [] ∧
    (waiting1 [.access (.write 0x2FF (.b1 1))]).inputs = .access (.write 0x2FF (.b1 1)) :: [] ∧
    (waiting1 [.access (.write 0x2FF (.b1 1))]).busy = true ∧ isLockable 0x2FF ∧ ¬ accessRejected 0x2FF (Data.b1 1).size := by
  decide

theorem meets_LittleEndianReadBack :
    let s := loaded [.access (.write 0x2FC (.b4 0x04030201)), .access (.read (BitVec.ofNat 11 ((0x2FC : BitVec 11).toNat + 3)) .one)]
    s.errReserved = false ∧ s.busy = false ∧ s.mem.wf = true ∧
    (0x200 ≤ (0x2FC : BitVec 11).toNat ∧ (0x2FC : BitVec 11).toNat < 0x300) ∧ (0x2FC : BitVec 11).toNat % (Data.b4 0x04030201).size.bytes = 0 ∧
    3 < (Data.b4 0x04030201).size.bytes ∧
    s.inputs = .access (.write 0x2FC (.b4 0x04030201)) :: .access (.read (BitVec.ofNat 11 ((0x2FC : BitVec 11).toNat + 3)) .one) :: [] := by
  decide

/-- An illegal word; a message of 257 bytes; a key of 31 bytes with a message of 256. -/
theorem meets_ErrorsReportedSynchronously :
    (decode 0x02000100 = .error .illegal ∧ (loaded [cmdWrite 0x02000100, statusRead]).errReserved = false ∧
      (loaded [cmdWrite 0x02000100, statusRead]).inputs = cmdWrite 0x02000100 :: statusRead :: []) ∧
    (∃ s : State, s.errReserved = false ∧ s.inputs = cmdWrite (encode .kdStart) :: statusRead :: [] ∧ s.busy = false ∧
      256 < s.kdMlen.toNat) ∧
    ∃ s : State, s.errReserved = false ∧ s.inputs = cmdWrite (encode .kdStart) :: statusRead :: [] ∧ s.busy = false ∧
      s.kdMlen.toNat ≤ 256 ∧ s.kdKlen ≠ 32 :=
  ⟨by decide, ⟨(loaded [cmdWrite (encode .kdStart), statusRead]).setKdMlen 257, by decide⟩,
    ⟨((loaded [cmdWrite (encode .kdStart), statusRead]).setKdMlen 256).setKdKlen 31, by decide⟩⟩

/-- The last word of the window; an address below it; one whose last byte lies past it. -/
theorem meets_AddressDecodeRelativeToBase :
    0x7FC + Size.four.bytes ≤ 0x800 ∧ 0x7FC + (Data.b4 1).size.bytes ≤ 0x800 ∧ 0x3FFF < 0x4000 ∧
    0x4000 + 0x800 < 0x47FD + Size.four.bytes ∧ 0x4000 + 0x800 < 0x47FD + (Data.b4 1).size.bytes := by decide

/-- A step that changes each element the host can change: CTRL, CRC_ACC by its three writers, KD_MLEN, KD_KLEN, a byte of
MSG, KD_STATE, and STATUS by KD_START, STAT_CLR, an illegal word and a locked write. -/
theorem meets_OnlyListedWriters :
    after (loaded [.access (.write 0x004 (.b4 1))]) (fun t => t.ctrl != 0) = some true ∧
    after (loaded [.access (.write 0x010 (.b4 1))]) (fun t => t.crcAcc != 0xFFFFFFFF) = some true ∧
    after ((loaded [cmdWrite (encode .crcInit)]).setCrcAcc 0) (fun t => t.crcAcc != 0) = some true ∧
    after (loaded [cmdWrite (encode (.crcByte 1))]) (fun t => t.crcAcc != 0xFFFFFFFF) = some true ∧
    after (loaded [.access (.write 0x018 (.b4 1))]) (fun t => t.kdMlen != 0) = some true ∧
    after (loaded [.access (.write 0x01C (.b4 1))]) (fun t => t.kdKlen != 0x20) = some true ∧
    after (loaded [.access (.write 0x2FF (.b1 1))]) (fun t => t.mem.read 0x2FF != 0) = some true ∧
    after (loaded [cmdWrite (encode .kdStart)]) (fun t => t.kdState != .idle && t.pend != none && t.status != 0) = some true ∧
    after (withStatus 0x36 [cmdWrite (encode .statClr)]) (fun t => t.status != 0x36) = some true ∧
    after (loaded [cmdWrite 0x02000100]) (fun t => t.status != 0) = some true ∧
    after (waiting1 [.access (.write 0x018 (.b4 1))]) (fun t => t.status != 1) = some true := by decide

/-- The clauses about the hash engine: STATUS changes at completion (DONE alone is left), and, whatever the hash function is,
some old H1 differs from the new one. For DIGEST see `meets_DigestChangesOnlyAtCompletion`. -/
theorem meets_OnlyListedWriters_engine :
    after (waiting2 [.engine]) (fun t => (t.status, t.kdState, t.pend)) = some (0x02, .idle, none) ∧
    ∃ s t : State, s.inputs = .engine :: [] ∧ step s = .next t ∧ t.h1 ≠ s.h1 := by
  refine ⟨by decide, ?_⟩
  have hstep : ∀ h, step ((waiting1 [.engine]).setH1 h) = .next ((((waiting1 [.engine]).setH1 h).setInputs []).engineStep) :=
    fun h => step_event ((waiting1 [.engine]).setH1 h) .engine [] rfl (by
      rw [show ((waiting1 [.engine]).setH1 h).errReserved = (waiting1 [.engine]).errReserved from rfl]; decide)
  by_cases h : Config.hash State.reset.s1 = Vector.replicate 32 0
  · refine ⟨_, _, rfl, hstep (Vector.replicate 32 1), ?_⟩
    show Config.hash State.reset.s1 ≠ Vector.replicate 32 1
    rw [h]; decide
  · exact ⟨_, _, rfl, hstep (Vector.replicate 32 0), h⟩

/-- A CRC write and a TABLE read, with KD state of a running digest; a KD access and an engine step. -/
theorem meets_UnitsAreIndependent :
    ((loaded [cmdWrite (encode (.crcByte 0))]).errReserved = false ∧ (waiting1 []).errReserved = false ∧
      (cmdWrite (encode (.crcByte 0))).isCrcOp = true ∧ (Event.access (.read 0x7FC .four)).isCrcOp = true ∧
      (Event.access (.write 0x200 (.b1 1))).isKdOp = true ∧ Event.engine.isKdOp = true ∧
      (cmdWrite (encode .kdStart)).isKdOp = true) ∧
    (∃ t, step (loaded [cmdWrite (encode (.crcByte 0))]) = .next t) ∧
    ∃ t, step (waiting1 [.engine]) = .next t := ⟨by decide, ⟨_, rfl⟩, ⟨_, rfl⟩⟩

theorem meets_CrcOpsCommuteWithEngineSteps :
    (waiting1 []).errReserved = false ∧ (cmdWrite (encode (.crcByte 0xFF))).isCrcOp = true := by decide

theorem meets_WignIsSticky :
    (withStatus 0x04 [cmdWrite (encode .kdStart)]).wign = true ∧
    (∃ t, step (withStatus 0x04 [cmdWrite (encode .kdStart)]) = .next t) ∧
    cmdWrite (encode .kdStart) ≠ .reset ∧ cmdWrite (encode .kdStart) ≠ cmdWrite (encode .statClr) :=
  ⟨by decide, ⟨_, rfl⟩, by decide, by decide⟩

/-- WIGN becomes 1: a KD_START and a store while BUSY. -/
theorem meets_WignIsSticky_set :
    (waiting1 []).wign = false ∧ (waiting1 []).busy = true ∧
    after (waiting1 [cmdWrite (encode .kdStart)]) State.wign = some true ∧
    after (waiting1 [.access (.write 0x2FF (.b1 1))]) State.wign = some true := by decide

/-- Whatever the hash function is, some old tag differs from the new one in its first byte. -/
theorem meets_DigestChangesOnlyAtCompletion :
    ∃ s t : State, s.inputs = .engine :: [] ∧ step s = .next t ∧ t.mem.read (0x140 + 0) ≠ s.mem.read (0x140 + 0) := by
  let d := Config.hash (List.replicate 64 0)
  by_cases h : d.toList.getD 0 0 = 0
  · let s := ((waiting2 [.engine]).setPend (some (List.replicate 64 0))).setMem (Memory.empty.write 0x140 1)
    refine ⟨s, _, rfl, step_event s .engine [] rfl (by decide), ?_⟩
    have hw := read_writeBytes (Memory.empty.write 0x140 1) 0x140 d.toList 0x140 (by decide)
    have hs : s.mem.read 0x140 = 1 := by decide
    rw [hs]
    show ((Memory.empty.write 0x140 1).writeBytes 0x140 d.toList).read 0x140 ≠ 1
    rw [hw]
    simp_all
  · let s := (waiting2 [.engine]).setPend (some (List.replicate 64 0))
    refine ⟨s, _, rfl, step_event s .engine [] rfl (by decide), ?_⟩
    have hw := read_writeBytes Memory.empty 0x140 d.toList 0x140 (by decide)
    have hs : s.mem.read 0x140 = 0 := by decide
    rw [hs]
    show (Memory.empty.writeBytes 0x140 d.toList).read 0x140 ≠ 0
    rw [hw]
    simp_all

theorem meets_ReservedErrCodeFaults :
    (withStatus 0x40 [.engine]).errReserved = true ∧ (withStatus 0x40 [.engine]).inputs = .engine :: [] ∧ Event.engine ≠ .reset := by
  decide

theorem meets_NoEventNoChange : (loaded []).inputs = [] := by decide

/-- The five invariant statements: a safe state that takes a step, and so meets each invariant. -/
theorem meets_invariants :
    (waiting2 [.engine]).Inv ∧ (∃ t, step (waiting2 [.engine]) = .next t) ∧
    (loaded [cmdWrite (encode .kdStart)]).Inv ∧ ∃ t, step (loaded [cmdWrite (encode .kdStart)]) = .next t :=
  ⟨by decide, ⟨_, rfl⟩, by decide, ⟨_, rfl⟩⟩

/-- A run that has ended, and one that still owes its digest. -/
theorem meets_EndedRunOwesNoDigest :
    (loaded [.engine]).sequencerConsistent ∧ (loaded [.engine]).runEnded ∧ (waiting1 []).sequencerConsistent ∧
    ¬ (waiting1 []).runEnded := by decide

/-- A late answer with no request outstanding; and a run of two steps, a reset that abandons a request and then the late
answer to it, each state of which keeps the duty. -/
theorem meets_RunsNeverStop :
    let d : Bytes32 := Vector.replicate 32 0
    ((loaded [.lateResponse d]).Inv ∧ (loaded [.lateResponse d]).resetDutyKept) ∧
    (waiting1 [.reset, .lateResponse d]).Inv ∧
    ∀ (j : Nat) (t : State), j < 2 → run j (waiting1 [.reset, .lateResponse d]) = .next t → t.resetDutyKept := by
  refine ⟨by decide, by decide, fun j t hj ht => ?_⟩
  obtain rfl | rfl : j = 0 ∨ j = 1 := by omega
  · cases ht; decide
  · cases ht; exact fun _ => rfl

/-- The clauses split on the duty: while a request is outstanding a late answer breaks it. -/
theorem test_resetDuty_broken : ¬ (waiting1 [.lateResponse (Vector.replicate 32 0)]).resetDutyKept := by decide

theorem meets_KdKeyStatementLoadsKey :
    let s := loaded (programEvents [.kdKey (List.range 32)] ++ [.engine])
    s.errReserved = false ∧ s.busy = false ∧ s.mem.wf = true ∧ (HostStmt.kdKey (List.range 32)).wellFormed = true ∧
    s.inputs = programEvents [.kdKey (List.range 32)] ++ [.engine] := by decide

/-- A short message, and the longest there is. -/
theorem meets_KdMsgStatementLoadsMessage :
    (∃ s, s = loaded (programEvents [.kdMsg [0x61, 0x62]] ++ [.engine]) ∧ s.errReserved = false ∧ s.busy = false ∧
      s.mem.wf = true ∧ (HostStmt.kdMsg [0x61, 0x62]).wellFormed = true ∧
      s.inputs = programEvents [.kdMsg [0x61, 0x62]] ++ [.engine]) ∧
    (HostStmt.kdMsg (List.replicate 256 0)).wellFormed = true :=
  ⟨⟨_, rfl, by decide, by decide, by decide, by decide, by decide⟩, test_hostStmt_messageLength.2⟩

end Sys2Proof.Tests
end

section
/-! SUPPORT. Which event writes which element of the state, and that every step keeps the invariants of a safe state
(spec/10_state.md section 6). Each is a case split on `StepCase`, the model's one list of what a step can do. -/

namespace Sys2Proof.Machine

/-! ## Command words: decoding and encoding undo each other -/

theorem decode_encode (i : Instr) : decode (encode i) = .ok i := by
  cases i with
  | nop | crcInit | kdStart | statClr => rfl
  | crcByte b => revert b; decide

/-- The word of CRC_BYTE is its opcode with the byte as IMM8 (R71, R72). -/
theorem encode_crcByte (b : Byte) : encode (.crcByte b) = 0x02000000#32 ||| b.setWidth 32 := by
  revert b; decide

theorem lowByte_setWidth (w : Word) : (w.extractLsb' 0 8).setWidth 32 = w &&& 0xFF#32 := by
  apply BitVec.eq_of_toNat_eq
  rw [BitVec.toNat_and, show (0xFF#32).toNat = 2 ^ 8 - 1 from rfl, Nat.and_two_pow_sub_one_eq_mod,
    BitVec.toNat_setWidth, BitVec.extractLsb'_toNat, Nat.shiftRight_zero]
  omega

/-- A word whose upper three bytes are those of CRC_BYTE is the CRC_BYTE of its low byte. -/
theorem encode_crcByte_low (w : Word) (h : w &&& 0xFFFFFF00#32 = 0x02000000#32) :
    encode (.crcByte (w.extractLsb' 0 8)) = w := by
  have masks : 0xFFFFFF00#32 ||| 0xFF#32 = BitVec.allOnes 32 := by decide
  rw [encode_crcByte, lowByte_setWidth, ← h, ← BitVec.and_or_distrib_left, masks, BitVec.and_allOnes]

theorem encode_of_decode {w : Word} {i : Instr} (h : decode w = .ok i) : encode i = w := by
  simp only [decode] at h
  split_ifs at h with h0 h1 h2 h3 h4 <;> cases h
  · exact h0.symm
  · exact h1.symm
  · exact encode_crcByte_low w h2
  · exact h3.symm
  · exact h4.symm

/-- A word that does not decode is no command's word. -/
theorem encode_ne_of_illegal {w : Word} {r : Reject} (h : decode w = .error r) (i : Instr) : encode i ≠ w := by
  rintro rfl
  rw [decode_encode] at h
  cases h

/-! ## Steps through `StepCase` -/

/-- With no event to come a step changes nothing (R138). -/
theorem step_wait {s : State} (hi : s.inputs = []) : step s = .next s := by
  simp [step, hi, waitForEvent]

/-- A step that answers a next state is one of the cases of `StepCase`, from the state with the event consumed and with
the responses of that moment. -/
theorem stepCase_of_step {s t : State} {e : Event} {rest : List Event} (hi : s.inputs = e :: rest)
    (h : step s = .next t) : ∃ rs, StepCase e ((s.setInputs rest).setResponses rs) t := by
  rcases step_inversion s t h with ⟨h0, -⟩ | ⟨e', rest', u, hi', -, hu, hc⟩
  · rw [hi] at h0; cases h0
  · obtain ⟨rfl, rfl⟩ := List.cons.inj (hi.symm.trans hi')
    rcases hu with rfl | ⟨r, rfl⟩
    · exact ⟨s.responses, hc⟩
    · exact ⟨r :: s.responses, hc⟩

/-- What does not look at the events to come and the responses, and is kept in every case of `StepCase`, is kept by every
step. -/
theorem step_keeps {P : State → Prop} (consumed : ∀ s es rs, P s → P ((s.setInputs es).setResponses rs))
    (kept : ∀ {e u t}, StepCase e u t → P u → P t) {s t : State} (h : step s = .next t) (hs : P s) : P t := by
  cases hi : s.inputs with
  | nil =>
    rw [step_wait hi] at h
    cases h
    exact hs
  | cons e rest =>
    obtain ⟨rs, hc⟩ := stepCase_of_step hi h
    exact kept hc (consumed s rest rs hs)

/-- A step answers a next state when ERR is legal and the platform keeps its reset duty. -/
theorem step_answers_next (s : State) (he : s.errReserved = false) (hd : s.resetDutyKept) : ∃ t, step s = .next t := by
  cases hi : s.inputs with
  | nil => exact ⟨s, step_wait hi⟩
  | cons e rest =>
    rw [step_event s e rest hi he]
    refine act_answers_next e _ fun d hl => hd ?_
    simp [hi, hl, Event.isLateResponse]

/-! ## The bytes of an aligned write to KEY or MSG -/

/-- An aligned access that begins in KEY or MSG lies wholly in it. -/
theorem aligned_store_range {off : BitVec 11} {n : Size} (hp : place off = .key ∨ place off = .msg)
    (ha : off.toNat % n.bytes = 0) :
    (0x100 ≤ off.toNat ∧ off.toNat + n.bytes ≤ 0x120) ∨ (0x200 ≤ off.toNat ∧ off.toNat + n.bytes ≤ 0x300) := by
  rw [place_key, place_msg] at hp
  cases n <;> simp only [Size.bytes] at ha ⊢ <;> omega

/-! ## What the reset event and KD_START leave -/

/-- After the reset event every flag is 0 (R41). -/
theorem resetEvent_flags (s : State) : s.resetEvent.busy = false ∧ s.resetEvent.done = false ∧
    s.resetEvent.wign = false ∧ s.resetEvent.err = 0 := by
  obtain ⟨busy, done, wign, err, -⟩ := flags_of_status (s := State.reset) (t := s.resetEvent) rfl
  exact ⟨busy.trans (by decide), done.trans (by decide), wign.trans (by decide), err.trans (by decide)⟩

/-- A KD_START that fails a check clears DONE, sets ERR to the check's code and keeps every other bit (R97 to R99). -/
theorem rejected_spec (s : State) (c : CommandError) :
    (((s.setDone false).setErr 0).raise c).busy = s.busy ∧ (((s.setDone false).setErr 0).raise c).done = false ∧
      (((s.setDone false).setErr 0).raise c).wign = s.wign ∧ (((s.setDone false).setErr 0).raise c).err = c.code ∧
      ∀ j, reservedStatusBit j → (((s.setDone false).setErr 0).raise c).status.getLsbD j = s.status.getLsbD j := by
  obtain ⟨-, err, busy, done, wign, reserved⟩ := raise_spec ((s.setDone false).setErr 0) c
  refine ⟨by simpa using busy, by simpa using done, by simpa using wign, err, fun j hj => ?_⟩
  rw [reserved j hj, setErr_reserved _ _ j hj, setDone_reserved _ _ j hj]

/-- A KD_START that starts a digest sets BUSY, clears DONE and ERR and keeps every other bit (R97, R100). -/
theorem started_spec (s : State) :
    ((s.setDone false).setErr 0).startDigest.busy = true ∧ ((s.setDone false).setErr 0).startDigest.done = false ∧
      ((s.setDone false).setErr 0).startDigest.wign = s.wign ∧ ((s.setDone false).setErr 0).startDigest.err = 0 ∧
      ∀ j, reservedStatusBit j → ((s.setDone false).setErr 0).startDigest.status.getLsbD j = s.status.getLsbD j := by
  obtain ⟨busy, done, wign, err, reserved⟩ := startDigest_spec ((s.setDone false).setErr 0)
  refine ⟨busy, by simpa using done, by simpa using wign, by simpa using err, fun j hj => ?_⟩
  rw [reserved j hj, setErr_reserved _ _ j hj, setDone_reserved _ _ j hj]

/-- What KD_START leaves unchanged, whether discarded, rejected or accepted (R96). -/
theorem kdStart_frame {s t : State} (h : exec .kdStart s = .next t) :
    (t.ctrl = s.ctrl ∧ t.crcAcc = s.crcAcc ∧ t.kdMlen = s.kdMlen ∧ t.kdKlen = s.kdKlen ∧ t.h1 = s.h1 ∧ t.mem = s.mem ∧
      t.inputs = s.inputs ∧ t.responses = s.responses) ∧
    (∀ j, reservedStatusBit j → t.status.getLsbD j = s.status.getLsbD j) ∧
    (s.busy = false → t.wign = s.wign) ∧ (s.busy = true → t = s.setWign true) := by
  rcases kdStart_cases s with ⟨hb, hx⟩ | ⟨hb, -, hx⟩ | ⟨hb, -, -, hx⟩ | ⟨hb, -, -, hx⟩ <;> rw [hx] at h <;> cases h <;>
    refine ⟨⟨rfl, rfl, rfl, rfl, rfl, rfl, rfl, rfl⟩, ?_⟩
  · exact ⟨setWign_reserved s true, by simp [hb], fun _ => rfl⟩
  · obtain ⟨-, -, wign, -, reserved⟩ := rejected_spec s .lengthExceeded
    exact ⟨reserved, fun _ => wign, by simp [hb]⟩
  · obtain ⟨-, -, wign, -, reserved⟩ := rejected_spec s .invalidKeyLength
    exact ⟨reserved, fun _ => wign, by simp [hb]⟩
  · obtain ⟨-, -, wign, -, reserved⟩ := started_spec s
    exact ⟨reserved, fun _ => wign, by simp [hb]⟩

namespace StepCase

variable {e : Event} {u t : State}

/-! ## The writers of each element (R42) -/

theorem ctrl_writer (h : StepCase e u t) (hr : e ≠ .reset) (hne : t.ctrl ≠ u.ctrl) :
    ∃ v, e = .access (.write 0x004 (.b4 v)) := by
  cases h with
  | reset he => exact absurd he hr
  | ctrl v he => exact ⟨v, he⟩
  | _ => subst t; exact absurd rfl hne

theorem crcAcc_writer (h : StepCase e u t) (hr : e ≠ .reset) (hne : t.crcAcc ≠ u.crcAcc) :
    (∃ v, e = .access (.write 0x010 (.b4 v))) ∨ e = cmdWrite (encode .crcInit) ∨
      ∃ b, e = cmdWrite (encode (.crcByte b)) := by
  cases h with
  | reset he => exact absurd he hr
  | seed v he => exact .inl ⟨v, he⟩
  | crcInit w he hw => exact .inr (.inl (encode_of_decode hw ▸ he))
  | crcByte w b he hw => exact .inr (.inr ⟨b, encode_of_decode hw ▸ he⟩)
  | _ => subst t; exact absurd rfl hne

theorem kdMlen_writer (h : StepCase e u t) (hr : e ≠ .reset) (hne : t.kdMlen ≠ u.kdMlen) :
    u.busy = false ∧ ∃ v, e = .access (.write 0x018 (.b4 v)) := by
  cases h with
  | reset he => exact absurd he hr
  | kdMlen v he hb => exact ⟨hb, v, he⟩
  | _ => subst t; exact absurd rfl hne

theorem kdKlen_writer (h : StepCase e u t) (hr : e ≠ .reset) (hne : t.kdKlen ≠ u.kdKlen) :
    u.busy = false ∧ ∃ v, e = .access (.write 0x01C (.b4 v)) := by
  cases h with
  | reset he => exact absurd he hr
  | kdKlen v he hb => exact ⟨hb, v, he⟩
  | _ => subst t; exact absurd rfl hne

theorem h1_writer (h : StepCase e u t) (hr : e ≠ .reset) (hne : t.h1 ≠ u.h1) : e = .engine ∧ u.kdState = .wait1 := by
  cases h with
  | reset he => exact absurd he hr
  | first m he hp hk => exact ⟨he, hk⟩
  | _ => subst t; exact absurd rfl hne

theorem sequencer_writer (h : StepCase e u t) (hr : e ≠ .reset) (hne : t.kdState ≠ u.kdState ∨ t.pend ≠ u.pend) :
    e = .engine ∨ e = cmdWrite (encode .kdStart) := by
  cases h with
  | reset he => exact absurd he hr
  | started w he hw => exact .inr (encode_of_decode hw ▸ he)
  | first m he | second m he => exact .inl he
  | _ => subst t; exact hne.elim (absurd rfl) (absurd rfl)

/-- A byte of the storage is changed by an aligned write to KEY or MSG while BUSY is 0 that covers it, or, in DIGEST, by
the second response. -/
theorem byte_writer (h : StepCase e u t) (hr : e ≠ .reset) {a : Nat} (hne : t.mem.read a ≠ u.mem.read a) :
    (u.busy = false ∧ ((0x100 ≤ a ∧ a < 0x120) ∨ (0x200 ≤ a ∧ a < 0x300)) ∧
      ∃ off d, e = .access (.write off d) ∧ off.toNat ≤ a ∧ a < off.toNat + d.size.bytes) ∨
    ((0x140 ≤ a ∧ a < 0x160) ∧ e = .engine ∧ u.kdState = .wait2) := by
  have covered : ∀ (b : Nat) (bs : List Byte), (u.mem.writeBytes b bs).read a ≠ u.mem.read a →
      b ≤ a ∧ a < b + bs.length := by
    intro b bs hw
    by_contra hout
    exact hw (read_writeBytes_ne _ _ _ _ (by omega))
  cases h with
  | reset he => exact absurd he hr
  | store off d he hb hp ha ht =>
    subst t
    have hc := covered off.toNat d.bytes hne
    rw [data_bytes_length] at hc
    have := aligned_store_range hp ha
    exact .inl ⟨hb, by omega, off, d, he, hc⟩
  | second m he hp hk ht =>
    subst t
    have hc := covered digestBase (Config.hash m).toList hne
    simp only [Vector.length_toList, digestBase] at hc
    exact .inr ⟨by omega, he, hk⟩
  | _ => subst t; exact absurd rfl hne

/-- A write that the lock discards is a KD_START or one to a locked location (R62, R96). -/
theorem locked_event (he : (∃ w, e = cmdWrite w ∧ decode w = .ok .kdStart) ∨
      ∃ off d, e = .access (.write off d) ∧ isLockable off) :
    e = cmdWrite (encode .kdStart) ∨ ∃ off d, e = .access (.write off d) ∧ isLockable off := by
  rcases he with ⟨w, he, hw⟩ | he
  · exact .inl (encode_of_decode hw ▸ he)
  · exact .inr he

theorem status_writer (h : StepCase e u t) (hr : e ≠ .reset) (hne : t.status ≠ u.status) :
    (e = .engine ∧ u.kdState = .wait2) ∨ e = cmdWrite (encode .kdStart) ∨ e = cmdWrite (encode .statClr) ∨
      (∃ w, e = cmdWrite w ∧ ∀ i, encode i ≠ w) ∨
      (u.busy = true ∧ ∃ off d, e = .access (.write off d) ∧ isLockable off) := by
  cases h with
  | reset he => exact absurd he hr
  | second m he hp hk => exact .inl ⟨he, hk⟩
  | rejected w he hw | started w he hw => exact .inr (.inl (encode_of_decode hw ▸ he))
  | statClr w he hw => exact .inr (.inr (.inl (encode_of_decode hw ▸ he)))
  | illegal w he hw => exact .inr (.inr (.inr (.inl ⟨w, he, encode_ne_of_illegal hw⟩)))
  | locked hb he =>
    rcases locked_event he with he | he
    · exact .inr (.inl he)
    · exact .inr (.inr (.inr (.inr ⟨hb, he⟩)))
  | _ => subst t; exact absurd rfl hne

/-! ## The flags of STATUS -/

/-- What becomes of WIGN (R39). -/
theorem wign_cases (h : StepCase e u t) :
    t.wign = u.wign ∨ (t.wign = false ∧ (e = .reset ∨ e = cmdWrite (encode .statClr))) ∨
      (u.busy = true ∧ t.wign = true ∧
        (e = cmdWrite (encode .kdStart) ∨ ∃ off d, e = .access (.write off d) ∧ isLockable off)) := by
  cases h with
  | reset he ht =>
    obtain ⟨-, -, wign, -⟩ := resetEvent_flags u
    subst t; exact .inr (.inl ⟨wign, .inl he⟩)
  | statClr w he hw ht =>
    obtain ⟨-, -, -, -, wign, -⟩ := acknowledge_spec u
    subst t; exact .inr (.inl ⟨wign, .inr (encode_of_decode hw ▸ he)⟩)
  | locked hb he ht => subst t; exact .inr (.inr ⟨hb, setWign_wign u true, locked_event he⟩)
  | illegal w he hw ht => subst t; exact .inl (setErr_wign u _)
  | rejected w he hw hb c hc ht =>
    obtain ⟨-, -, wign, -⟩ := rejected_spec u c
    subst t; exact .inl wign
  | started w he hw hb hm hk ht =>
    obtain ⟨-, -, wign, -⟩ := started_spec u
    subst t; exact .inl wign
  | second m he hp hk ht =>
    obtain ⟨-, -, wign, -⟩ := secondResponse_spec u (Config.hash m)
    subst t; exact .inl wign
  | _ => subst t; exact .inl rfl

/-- ERR is kept, or becomes 0 or the code of a command error (R38). -/
theorem err_cases (h : StepCase e u t) : t.err = u.err ∨ t.err = 0 ∨ ∃ c : CommandError, t.err = c.code := by
  cases h with
  | reset he ht =>
    obtain ⟨-, -, -, err⟩ := resetEvent_flags u
    subst t; exact .inr (.inl err)
  | statClr w he hw ht => subst t; exact .inr (.inl (setErr_err _ 0))
  | illegal w he hw ht => subst t; exact .inr (.inr ⟨.illegalCommand, setErr_err u _⟩)
  | rejected w he hw hb c hc ht => subst t; exact .inr (.inr ⟨c, setErr_err _ _⟩)
  | started w he hw hb hm hk ht =>
    obtain ⟨-, -, -, err, -⟩ := started_spec u
    subst t; exact .inr (.inl err)
  | locked hb he ht => subst t; exact .inl (setWign_err u true)
  | second m he hp hk ht =>
    obtain ⟨-, -, -, err, -⟩ := secondResponse_spec u (Config.hash m)
    subst t; exact .inl err
  | _ => subst t; exact .inl rfl

/-- A reserved bit of STATUS that is 0 stays 0 (R18). -/
theorem reserved_status (h : StepCase e u t) (j : Nat) (hj : reservedStatusBit j) (hu : u.status.getLsbD j = false) :
    t.status.getLsbD j = false := by
  cases h with
  | reset he ht => subst t; exact BitVec.getLsbD_zero
  | statClr w he hw ht =>
    obtain ⟨-, -, -, -, -, reserved⟩ := acknowledge_spec u
    subst t; exact (reserved j hj).trans hu
  | illegal w he hw ht => subst t; exact (setErr_reserved u _ j hj).trans hu
  | rejected w he hw hb c hc ht =>
    obtain ⟨-, -, -, -, reserved⟩ := rejected_spec u c
    subst t; exact (reserved j hj).trans hu
  | started w he hw hb hm hk ht =>
    obtain ⟨-, -, -, -, reserved⟩ := started_spec u
    subst t; exact (reserved j hj).trans hu
  | locked hb he ht => subst t; exact (setWign_reserved u _ j hj).trans hu
  | second m he hp hk ht =>
    obtain ⟨-, -, -, -, reserved⟩ := secondResponse_spec u (Config.hash m)
    subst t; exact (reserved j hj).trans hu
  | _ => subst t; exact hu

end StepCase

/-! ## The reserved fields (R18, R38) -/

theorem code_le (c : CommandError) : c.code.toNat ≤ 3 := by cases c <;> decide

theorem errReserved_eq_false_iff (s : State) : s.errReserved = false ↔ s.err.toNat ≤ 3 := by
  simp [State.errReserved]

/-- The reserved bits of CTRL are 0 in a masked word. -/
theorem masked_ctrl_legal (v : Word) : v &&& ctrlMask &&& ~~~ctrlMask = 0 := by
  rw [BitVec.and_assoc, show ctrlMask &&& ~~~ctrlMask = 0 from rfl]
  exact BitVec.and_zero

theorem getLsbD_not_statusMask (j : Nat) (hj : j < 32) :
    (~~~statusMask).getLsbD j = decide (reservedStatusBit j) := by
  interval_cases j <;> decide

/-- The mask leaves out exactly the reserved bits of STATUS. -/
theorem status_legal_iff (v : Word) :
    v &&& ~~~statusMask = 0 ↔ ∀ j, reservedStatusBit j → v.getLsbD j = false := by
  constructor
  · intro h j hj
    by_cases h32 : j < 32
    · simpa [getLsbD_not_statusMask j h32, hj] using congrArg (·.getLsbD j) h
    · exact BitVec.getLsbD_of_ge _ _ (by omega)
  · intro h
    apply BitVec.eq_of_getLsbD_eq
    intro j h32
    rw [BitVec.getLsbD_and, getLsbD_not_statusMask j h32]
    by_cases hj : reservedStatusBit j
    · simp [h j hj]
    · simp [hj]

theorem StepCase.keeps_fieldsLegal {e : Event} {u t : State} (h : StepCase e u t) (hu : u.fieldsLegal) :
    t.fieldsLegal := by
  obtain ⟨hctrl, hstatus, herr⟩ := hu
  rw [status_legal_iff] at hstatus
  rw [errReserved_eq_false_iff] at herr
  refine ⟨?_, (status_legal_iff _).2 fun j hj => h.reserved_status j hj (hstatus j hj),
    (errReserved_eq_false_iff _).2 ?_⟩
  · cases h with
    | reset he ht => subst t; exact BitVec.zero_and
    | ctrl v he ht => subst t; exact masked_ctrl_legal v
    | _ => subst t; exact hctrl
  · rcases h.err_cases with h | h | ⟨c, h⟩ <;> rw [h]
    · exact herr
    · decide
    · exact code_le c

/-! ## The sequencer (R36) -/

/-- The sequencer invariant reads BUSY, KD_STATE, PEND and what S1 and S2 are formed of, and nothing else. -/
theorem sequencerConsistent_congr {u t : State} (busy : t.busy = u.busy) (kdState : t.kdState = u.kdState)
    (pend : t.pend = u.pend) (s1 : t.s1 = u.s1) (s2 : t.s2 = u.s2) (hu : u.sequencerConsistent) :
    t.sequencerConsistent := by
  simpa only [State.sequencerConsistent, busy, kdState, pend, s1, s2] using hu

theorem sequencerConsistent_of_idle {t : State} (busy : t.busy = false) (kdState : t.kdState = .idle)
    (pend : t.pend = none) : t.sequencerConsistent := by
  simp [State.sequencerConsistent, busy, kdState, pend]

/-- While BUSY is 0 the sequencer is idle and owes no answer. -/
theorem idle_of_free {u : State} (hu : u.sequencerConsistent) (hb : u.busy = false) :
    u.kdState = .idle ∧ u.pend = none := by
  obtain ⟨hbusy, hpend, -, -⟩ := hu
  have hk : u.kdState = .idle := by
    by_contra hk
    simp [hbusy.2 hk] at hb
  exact ⟨hk, by simpa [hk] using hpend⟩

theorem StepCase.keeps_sequencerConsistent {e : Event} {u t : State} (h : StepCase e u t)
    (hu : u.sequencerConsistent) : t.sequencerConsistent := by
  cases h with
  | reset he ht =>
    subst t; exact sequencerConsistent_of_idle (resetEvent_flags u).1 rfl rfl
  | statClr w he hw ht =>
    obtain ⟨-, -, busy, -⟩ := acknowledge_spec u
    subst t; exact sequencerConsistent_congr busy rfl rfl rfl rfl hu
  | illegal w he hw ht =>
    subst t; exact sequencerConsistent_congr (setErr_busy u _) rfl rfl rfl rfl hu
  | rejected w he hw hb c hc ht =>
    obtain ⟨busy, -⟩ := rejected_spec u c
    subst t; exact sequencerConsistent_congr busy rfl rfl rfl rfl hu
  | locked hb he ht =>
    subst t; exact sequencerConsistent_congr (setWign_busy u true) rfl rfl rfl rfl hu
  | kdMlen v he hb ht =>
    obtain ⟨hk, hp⟩ := idle_of_free hu hb
    subst t; exact sequencerConsistent_of_idle hb hk hp
  | store off d he hb hp ha ht =>
    obtain ⟨hk, hp⟩ := idle_of_free hu hb
    subst t; exact sequencerConsistent_of_idle hb hk hp
  | started w he hw hb hm hk ht =>
    obtain ⟨busy, -⟩ := started_spec u
    have hwait : t.kdState = .wait1 := by rw [ht]; rfl
    have hpend : t.pend = some t.s1 := by rw [ht]; rfl
    rw [← ht] at busy
    simp [State.sequencerConsistent, busy, hwait, hpend]
  | first m he hp hk ht =>
    have busy : t.busy = true := by
      have : u.busy = true := hu.1.2 (by simp [hk])
      rw [ht]; exact this
    have hwait : t.kdState = .wait2 := by rw [ht]; rfl
    have hpend : t.pend = some t.s2 := by rw [ht]; rfl
    simp [State.sequencerConsistent, busy, hwait, hpend]
  | second m he hp hk ht =>
    subst t; exact sequencerConsistent_of_idle (secondResponse_spec u _).1 rfl rfl
  | _ => subst t; exact hu

/-! ## Completion (R37, R126) -/

theorem completionConsistent_of_stopped {t : State} (busy : t.busy = false) (done : t.done = false) :
    t.completionConsistent := by
  simp [State.completionConsistent, busy, done]

theorem completionConsistent_of_not_done {t : State} (done : t.done = false) (err : t.err = 0) :
    t.completionConsistent := by
  simp [State.completionConsistent, done, err]

theorem StepCase.keeps_completionConsistent {e : Event} {u t : State} (h : StepCase e u t)
    (hs : u.sequencerConsistent) (hu : u.completionConsistent) : t.completionConsistent := by
  cases h with
  | reset he ht =>
    obtain ⟨busy, done, -⟩ := resetEvent_flags u
    subst t; exact completionConsistent_of_stopped busy done
  | statClr w he hw ht =>
    obtain ⟨-, err, -, done, -⟩ := acknowledge_spec u
    subst t; exact completionConsistent_of_not_done done err
  | illegal w he hw ht =>
    obtain ⟨-, err, busy, done, -⟩ := raise_spec u .illegalCommand
    subst t; exact ⟨by simpa only [busy, done] using hu.1, fun _ => .inr err⟩
  | rejected w he hw hb c hc ht =>
    obtain ⟨busy, done, -⟩ := rejected_spec u c
    subst t; exact completionConsistent_of_stopped (busy.trans hb) done
  | started w he hw hb hm hk ht =>
    obtain ⟨-, done, -, err, -⟩ := started_spec u
    subst t; exact completionConsistent_of_not_done done err
  | locked hb he ht =>
    subst t; simpa only [State.completionConsistent, setWign_busy, setWign_done, setWign_err] using hu
  | second m he hp hk ht =>
    obtain ⟨busy, -, -, err, -⟩ := secondResponse_spec u (Config.hash m)
    have running : u.busy = true := hs.1.2 (by simp [hk])
    subst t; exact ⟨by simp [busy], fun _ => err ▸ hu.2 (.inl running)⟩
  | _ => subst t; exact hu

/-! ## The lengths of a running digest (R98, R99) -/

theorem lengthsChecked_of_free {t : State} (h : t.busy = false) : t.lengthsChecked := by
  simp [State.lengthsChecked, h]

theorem StepCase.keeps_lengthsChecked {e : Event} {u t : State} (h : StepCase e u t) (hu : u.lengthsChecked) :
    t.lengthsChecked := by
  cases h with
  | kdMlen _ _ hb ht | kdKlen _ _ hb ht => subst t; exact lengthsChecked_of_free hb
  | reset he ht => subst t; exact lengthsChecked_of_free (resetEvent_flags u).1
  | statClr w he hw ht =>
    obtain ⟨-, -, busy, -⟩ := acknowledge_spec u
    subst t; exact fun hb => hu (busy ▸ hb)
  | illegal w he hw ht => subst t; exact fun hb => hu (setErr_busy u _ ▸ hb)
  | locked hb he ht => subst t; exact fun _ => hu hb
  | rejected w he hw hb c hc ht =>
    obtain ⟨busy, -⟩ := rejected_spec u c
    subst t; exact lengthsChecked_of_free (busy.trans hb)
  | started w he hw hb hm hk ht => subst t; exact fun _ => ⟨hm, hk⟩
  | second m he hp hk ht => subst t; exact lengthsChecked_of_free (secondResponse_spec u _).1
  | _ => subst t; exact hu

/-! ## The storage (R17) -/

theorem hasStorage_iff (a : Nat) : hasStorage a = true ↔
    (0x100 ≤ a ∧ a < 0x120) ∨ (0x140 ≤ a ∧ a < 0x160) ∨ (0x200 ≤ a ∧ a < 0x300) := by
  simp [hasStorage, or_assoc]

/-- Writing bytes to offsets that have storage keeps the storage legal. -/
theorem storageLegal_writeBytes {u : State} (a : Nat) (bs : List Byte) (hu : u.storageLegal)
    (ha : ∀ x, a ≤ x → x < a + bs.length → hasStorage x = true) : (u.setMem (u.mem.writeBytes a bs)).storageLegal := by
  obtain ⟨wf, cells⟩ := hu
  refine ⟨writeBytes_wf _ _ _ wf, List.all_eq_true.2 fun c hc => ?_⟩
  rcases writeBytes_cells _ _ _ c hc with ⟨hlo, hhi⟩ | hc
  · exact ha c.1 hlo hhi
  · exact List.all_eq_true.1 cells c hc

theorem StepCase.keeps_storageLegal {e : Event} {u t : State} (h : StepCase e u t) (hu : u.storageLegal) :
    t.storageLegal := by
  cases h with
  | reset he ht => subst t; exact ⟨rfl, rfl⟩
  | store off d he hb hp ha ht =>
    subst t
    refine storageLegal_writeBytes off.toNat d.bytes hu fun x hlo hhi => ?_
    have := aligned_store_range hp ha
    rw [data_bytes_length] at hhi
    exact (hasStorage_iff x).2 (by omega)
  | second m he hp hk ht =>
    subst t
    refine storageLegal_writeBytes digestBase (Config.hash m).toList hu fun x hlo hhi => ?_
    simp only [Vector.length_toList, digestBase] at hlo hhi
    exact (hasStorage_iff x).2 (by omega)
  | _ => subst t; exact hu

/-! ## The requests (R104) -/

theorem s1_length (s : State) : s.s1.length = 32 + s.kdMlen.toNat := by
  simp [State.s1, State.key, State.msg, bytesAt_length]

theorem s2_length (s : State) : s.s2.length = 64 := by
  simp [State.s2, State.key, bytesAt_length]

theorem portLegal_of_issue {u t : State} {m : ByteString} (hu : u.portLegal) (ht : t.requests = m :: u.requests)
    (hlo : 32 ≤ m.length) (hhi : m.length ≤ 288) : t.portLegal := by
  simp only [State.portLegal, ht, List.all_cons, Bool.and_eq_true, decide_eq_true_eq]
  exact ⟨⟨hlo, hhi⟩, hu⟩

theorem StepCase.keeps_portLegal {e : Event} {u t : State} (h : StepCase e u t) (hu : u.portLegal) : t.portLegal := by
  cases h with
  | started w he hw hb hm hk ht =>
    have := s1_length u
    simp only [Config.maxMessageSize] at hm
    subst t; exact portLegal_of_issue hu (m := u.s1) rfl (by omega) (by omega)
  | first m he hp hk ht =>
    have := s2_length (u.setH1 (Config.hash m))
    subst t; exact portLegal_of_issue hu (m := (u.setH1 (Config.hash m)).s2) rfl (by omega) (by omega)
  | _ => subst t; exact hu

/-! ## Safe states -/

theorem StepCase.keeps_inv {e : Event} {u t : State} (h : StepCase e u t) (hu : u.Inv) : t.Inv := by
  obtain ⟨fields, sequencer, completion, lengths, storage, port⟩ := hu
  exact ⟨h.keeps_fieldsLegal fields, h.keeps_sequencerConsistent sequencer,
    h.keeps_completionConsistent sequencer completion, h.keeps_lengthsChecked lengths, h.keeps_storageLegal storage,
    h.keeps_portLegal port⟩

theorem step_keeps_inv {s t : State} (h : step s = .next t) (hs : s.Inv) : t.Inv :=
  step_keeps (P := State.Inv) (fun _ _ _ hs => hs) StepCase.keeps_inv h hs

/-- A safe state whose next event keeps the reset duty answers a safe state. -/
theorem safe_step (s : State) (hs : s.Inv) (hd : s.resetDutyKept) : ∃ t, step s = .next t ∧ t.Inv := by
  have ⟨⟨_, _, herr⟩, _⟩ := hs
  obtain ⟨t, ht⟩ := step_answers_next s herr hd
  exact ⟨t, ht, step_keeps_inv ht hs⟩

/-- A run from a safe state, each of whose states keeps the reset duty, answers a safe state. -/
theorem safe_run (s : State) (k : Nat) (hs : s.Inv)
    (hd : ∀ (j : Nat) (t : State), j < k → run j s = .next t → t.resetDutyKept) : ∃ t, run k s = .next t ∧ t.Inv := by
  induction k generalizing s with
  | zero => exact ⟨s, run_zero s, hs⟩
  | succ k ih =>
    obtain ⟨u, hu, hinv⟩ := safe_step s hs (hd 0 s (by omega) (run_zero s))
    rw [run_step k s u hu]
    exact ih u hinv fun j t hj ht => hd (j + 1) t (by omega) ((run_step j s u hu).trans ht)

end Sys2Proof.Machine
end

section
/-! CERTIFICATES. The statements about the state (spec/10_state.md), settled. -/

namespace Sys2Proof.Certificates

open Sys2Proof.Machine

/-- Settles O51: every case of a step keeps the sequencer invariant, whose S1 and S2 are the strings written out here. -/
theorem sequencerStaysConsistent : Obligations.SequencerStaysConsistent := by
  intro s t hs h
  exact step_keeps (P := State.sequencerConsistent) (fun _ _ _ hs => hs) StepCase.keeps_sequencerConsistent h hs

/-- Settles O57: a safe state steps to a safe state, and so, by induction on the number of steps, does every run. -/
theorem runsNeverStop : Obligations.RunsNeverStop := ⟨safe_step, safe_run⟩

/-- Settles O15: four of the commands write CRC_ACC or flags of STATUS alone; KD_START by its frame lemma. -/
theorem commandFrames : Obligations.CommandFrames := by
  intro i s t h
  cases i with
  | nop =>
    cases h
    exact ⟨rfl, rfl, rfl, rfl, fun _ => rfl, rfl, rfl, fun _ _ => rfl, fun _ => rfl, fun _ => rfl,
      fun _ => ⟨rfl, rfl, rfl, rfl⟩, by simp, by simp⟩
  | crcInit | crcByte b =>
    cases h
    exact ⟨rfl, rfl, rfl, rfl, fun _ => rfl, rfl, rfl, fun _ _ => rfl, by simp, fun _ => rfl,
      fun _ => ⟨rfl, rfl, rfl, rfl⟩, by simp, by simp⟩
  | statClr =>
    cases h
    obtain ⟨-, -, busy, -, -, reserved⟩ := acknowledge_spec s
    exact ⟨rfl, rfl, rfl, rfl, fun _ => rfl, rfl, rfl, reserved, fun _ => rfl, by simp,
      fun _ => ⟨rfl, rfl, rfl, busy⟩, by simp, by simp⟩
  | kdStart =>
    obtain ⟨⟨ctrl, crcAcc, kdMlen, kdKlen, h1, mem, inputs, responses⟩, reserved, wign, discarded⟩ := kdStart_frame h
    refine ⟨ctrl, kdMlen, kdKlen, h1, fun a => by rw [mem], inputs, responses, reserved, fun _ => crcAcc, by simp,
      fun hne => absurd rfl hne, fun _ => wign, fun _ hb => ?_⟩
    rw [discarded hb]
    exact ⟨setWign_busy s true, setWign_done s true, setWign_err s true, rfl, rfl, rfl⟩

/-- Settles O43, one writer lemma per element. -/
theorem onlyListedWriters : Obligations.OnlyListedWriters := by
  intro s t e rest hi h hr
  obtain ⟨rs, hc⟩ := stepCase_of_step hi h
  refine ⟨hc.ctrl_writer hr, hc.crcAcc_writer hr, hc.kdMlen_writer hr, hc.kdKlen_writer hr, fun a ha hne => ?_,
    fun a hlo hhi hne => ?_, hc.sequencer_writer hr, hc.h1_writer hr, hc.status_writer hr⟩
  · rcases hc.byte_writer hr hne with host | ⟨hin, -⟩
    · exact host
    · omega
  · rcases hc.byte_writer hr hne with ⟨-, hin, -⟩ | ⟨-, response⟩
    · omega
    · exact response

/-- Settles O46: WIGN is kept, cleared by STAT_CLR or reset, or set by the lock. -/
theorem wignIsSticky : Obligations.WignIsSticky := by
  intro s t e rest hi h
  obtain ⟨rs, hc⟩ := stepCase_of_step hi h
  rcases hc.wign_cases with kept | ⟨hclear, he⟩ | ⟨hb, hset, he⟩
  · exact ⟨fun hs _ _ => kept.trans hs, fun hs ht => absurd (ht.symm.trans (kept.trans hs)) (by decide)⟩
  · exact ⟨fun _ hr hc => (he.elim hr hc).elim, fun _ ht => absurd (ht.symm.trans hclear) (by decide)⟩
  · exact ⟨fun _ _ _ => hset, fun _ _ => ⟨hb, he⟩⟩

/-- Settles O52: the completion invariant is kept beside the sequencer's, which says that WAIT2 is a BUSY state. -/
theorem completionFlagsStayConsistent : Obligations.CompletionFlagsStayConsistent := by
  intro s t hs hc h
  exact (step_keeps (P := fun s => s.sequencerConsistent ∧ s.completionConsistent) (fun _ _ _ hs => hs)
    (fun h hu => ⟨h.keeps_sequencerConsistent hu.1, h.keeps_completionConsistent hu.1 hu.2⟩) h ⟨hs, hc⟩).2

/-- Settles O53: a reserved bit that is 0 stays 0, and ERR takes only the codes of R38. -/
theorem reservedFieldsStayLegal : Obligations.ReservedFieldsStayLegal := by
  intro s t hs h
  exact step_keeps (P := State.fieldsLegal) (fun _ _ _ hs => hs) StepCase.keeps_fieldsLegal h hs

/-- Settles O55: bytes are stored only at aligned offsets of KEY and MSG and over the whole of DIGEST. -/
theorem storageStaysCanonical : Obligations.StorageStaysCanonical := by
  intro s t hs h
  exact step_keeps (P := State.storageLegal) (fun _ _ _ hs => hs) StepCase.keeps_storageLegal h hs

/-- Settles O1, by evaluation of the reset state: no cell is listed, so every byte reads 0. -/
theorem resetLeavesSpecValues : Obligations.ResetLeavesSpecValues := by
  refine ⟨by decide, rfl, rfl, rfl, by decide, rfl, rfl, ?_, ?_, ?_, ?_, rfl, rfl⟩
  · exact fun _ _ => rfl
  · exact fun _ _ => rfl
  · exact fun _ _ => rfl
  · rfl

/-- Settles O33: no line of a read (R54) looks at H1, PEND or KD_STATE. -/
theorem hiddenStateIsInvisible : Obligations.HiddenStateIsInvisible := by
  intro s off n d p k
  rfl

/-- Settles O50, by evaluation of the reset state. -/
theorem resetIsSafe : Obligations.ResetIsSafe := by
  unfold Obligations.ResetIsSafe
  decide

end Sys2Proof.Certificates
end

section
/-! SUPPORT. Host accesses (spec/20_memory.md): the address decoding, what a read answers and a write leaves at each kind of
location, and which part of the state each unit's operations look at (R63). -/

namespace Sys2Proof.Machine

/-! ## Address decoding (R52) -/

theorem windowOffset_inside (base off : Nat) (n : Size) (h : off + n.bytes ≤ 0x800) :
    windowOffset base (base + off) n = some (BitVec.ofNat 11 off) := by
  have hin : base ≤ base + off ∧ base + off - base + n.bytes ≤ Config.windowSize :=
    ⟨by omega, by rw [Nat.add_sub_cancel_left]; exact h⟩
  rw [windowOffset, if_pos hin, Nat.add_sub_cancel_left]

theorem windowOffset_outside (base addr : Nat) (n : Size) (h : addr < base ∨ base + 0x800 < addr + n.bytes) :
    windowOffset base addr n = none :=
  if_neg fun hin => by
    simp only [Config.windowSize] at hin
    omega

/-! ## Accesses and their steps (R53) -/

theorem act_read (off : BitVec 11) (n : Size) (s : State) :
    act (.access (.read off n)) s = .next (s.respond (readResponse off n s)) := rfl

/-- A write the block performs is answered OK and takes effect (R55). -/
theorem act_write {off : BitVec 11} {d : Data} (s : State) (h : ¬ accessRejected off d.size) :
    act (.access (.write off d)) s = memWrite off d (s.respond .writeOk) := by
  rw [act, hostAccess, if_neg ((busFault_iff off d.size).not.2 h)]

theorem act_write_rejected {off : BitVec 11} {d : Data} (s : State) (h : accessRejected off d.size) :
    act (.access (.write off d)) s = .next (s.respond .busError) := by
  rw [act, hostAccess, if_pos ((busFault_iff off d.size).2 h)]

theorem act_ctrlWrite (v : Word) (s : State) :
    act (.access (.write 0x004 (.b4 v))) s = .next ((s.respond .writeOk).setCtrl (v &&& ctrlMask)) :=
  act_write s (by decide : ¬ accessRejected 0x004 .four)

theorem act_seedWrite (v : Word) (s : State) : act (seedWrite v) s = .next ((s.respond .writeOk).setCrcAcc v) :=
  act_write s (by decide : ¬ accessRejected 0x010 .four)

/-- The CMD write of a command's word is the command, after the write was answered OK (R70). -/
theorem act_command (i : Instr) (s : State) : act (cmdWrite (encode i)) s = exec i (s.respond .writeOk) := by
  rw [act_cmdWrite, runCommand, decode_encode]

section access
variable {s : State} {off : BitVec 11} {rest : List Event}

/-- A read records its response and changes nothing else (R54). -/
theorem step_read {n : Size} (he : s.errReserved = false) (hi : s.inputs = .access (.read off n) :: rest) :
    step s = .next ((s.setInputs rest).respond (readResponse off n s)) :=
  step_event s _ rest hi he

theorem step_write_rejected {d : Data} (he : s.errReserved = false) (hi : s.inputs = .access (.write off d) :: rest)
    (h : accessRejected off d.size) : step s = .next ((s.setInputs rest).respond .busError) :=
  (step_event s _ rest hi he).trans (act_write_rejected _ h)

theorem step_write {d : Data} (he : s.errReserved = false) (hi : s.inputs = .access (.write off d) :: rest)
    (h : ¬ accessRejected off d.size) : step s = memWrite off d ((s.setInputs rest).respond .writeOk) :=
  (step_event s _ rest hi he).trans (act_write _ h)

end access

/-! ## What a read answers (R54) -/

/-- A window of byte storage: KEY, DIGEST or MSG. -/
abbrev isBuffer (off : BitVec 11) : Prop := place off = .key ∨ place off = .digest ∨ place off = .msg

theorem readResponse_rejected {off : BitVec 11} {n : Size} (s : State) (h : accessRejected off n) :
    readResponse off n s = .busError := by
  rw [readResponse, memRead, if_pos ((busFault_iff off n).2 h)]

theorem readResponse_buffer {off : BitVec 11} {n : Size} (s : State) (h : ¬ accessRejected off n) (hp : isBuffer off) :
    readResponse off n s = .data (s.mem.readData off.toNat n) := by
  rw [readResponse, memRead, if_neg ((busFault_iff off n).not.2 h)]
  rcases hp with hp | hp | hp <;> rw [hp]

theorem readResponse_table {off : BitVec 11} {n : Size} (s : State) (h : ¬ accessRejected off n)
    (hp : place off = .table) : readResponse off n s = .data (tableData s.t255fix off.toNat n) := by
  rw [readResponse, memRead, if_neg ((busFault_iff off n).not.2 h), hp]

/-- An aligned access to the storage is never answered BusError (R122). -/
theorem buffer_access_performed {off : BitVec 11} {n : Size} (hp : isBuffer off) (ha : off.toNat % n.bytes = 0) :
    ¬ accessRejected off n := by
  rw [isBuffer, place_key, place_digest, place_msg] at hp
  rintro (hm | hr | ⟨hlt, -⟩)
  · exact hm ha
  · simp only [inReservedRange] at hr
    omega
  · omega

/-! ## What a write leaves (R55) and the lock (R62) -/

/-- Discarding a write sets WIGN and keeps every other bit of STATUS (R39). -/
theorem setWign_statusIs (s : State) (hb : s.busy = true) :
    StatusIs (s.setWign true).status true s.done true s.err s.status :=
  ⟨(setWign_busy s true).trans hb, setWign_done s true, setWign_wign s true, setWign_err s true, setWign_reserved s true⟩

/-- Raising IllegalCommand sets ERR to 3 and keeps every other bit of STATUS (R125). -/
theorem raise_illegal_statusIs (s : State) :
    StatusIs (s.raise .illegalCommand).status s.busy s.done s.wign 3 s.status := by
  obtain ⟨-, err, busy, done, wign, reserved⟩ := raise_spec s .illegalCommand
  exact ⟨busy, done, wign, err, reserved⟩

theorem memWrite_readOnly {off : BitVec 11} (d : Data) (s : State) (hp : place off = .digest ∨ place off = .table) :
    memWrite off d s = .next s := by
  rcases hp with hp | hp <;> simp only [memWrite, hp]

theorem memWrite_store {off : BitVec 11} (d : Data) (s : State) (hp : place off = .key ∨ place off = .msg) :
    memWrite off d s = .next (s.unlessLocked (s.storeBytes off d)) := by
  rcases hp with hp | hp <;> simp only [memWrite, hp]

theorem memWrite_store_free {off : BitVec 11} (d : Data) (s : State) (hp : place off = .key ∨ place off = .msg)
    (hb : s.busy = false) : memWrite off d s = .next (s.storeBytes off d) := by
  rw [memWrite_store d s hp, unlessLocked_free s _ hb]

/-- A lockable location is KD_MLEN, KD_KLEN, or one of the two buffers the host can write. -/
theorem isLockable_iff (off : BitVec 11) :
    isLockable off ↔ off = 0x018 ∨ off = 0x01C ∨ place off = .key ∨ place off = .msg := by
  rw [place_key, place_msg]

/-- While BUSY a write to a locked location only sets WIGN. -/
theorem memWrite_locked {off : BitVec 11} (d : Data) (s : State) (hl : isLockable off) (hb : s.busy = true) :
    memWrite off d s = .next (s.setWign true) := by
  rcases (isLockable_iff off).1 hl with rfl | rfl | hp
  · exact congrArg Host.Outcome.next (unlessLocked_busy s _ hb)
  · exact congrArg Host.Outcome.next (unlessLocked_busy s _ hb)
  · rw [memWrite_store d s hp, unlessLocked_busy s _ hb]

/-- While BUSY a KD_START only sets WIGN (R96). -/
theorem exec_kdStart_locked (s : State) (hb : s.busy = true) : exec .kdStart s = .next (s.setWign true) :=
  congrArg Host.Outcome.next (unlessLocked_busy s _ hb)

/-- No register and no byte that the lock covers depends on STATUS. -/
theorem readResponse_lockable_status {off : BitVec 11} (n : Size) (s : State) (st : Word) (hl : isLockable off) :
    readResponse off n (s.setStatus st) = readResponse off n s := by
  rcases (isLockable_iff off).1 hl with rfl | rfl | hp | hp
  · rfl
  · rfl
  · simp only [readResponse, memRead, hp, setStatus_mem]
  · simp only [readResponse, memRead, hp, setStatus_mem]

/-! ## The bytes a write stores (R47) -/

theorem read_storeBytes {off : BitVec 11} {d : Data} {k : Nat} (s : State) (wf : s.mem.wf = true)
    (hk : k < d.size.bytes) :
    (s.storeBytes off d).mem.read (off.toNat + k) = d.word.extractLsb' (8 * k) 8 := by
  have hin : off.toNat ≤ off.toNat + k ∧ off.toNat + k < off.toNat + d.bytes.length := by
    rw [data_bytes_length]; omega
  rw [State.storeBytes, setMem_mem, read_writeBytes _ _ _ _ wf, if_pos hin, Nat.add_sub_cancel_left, data_byte d k hk]

theorem read_storeBytes_ne {off : BitVec 11} {d : Data} {a : Nat} (s : State)
    (ha : a < off.toNat ∨ off.toNat + d.size.bytes ≤ a) : (s.storeBytes off d).mem.read a = s.mem.read a :=
  read_writeBytes_ne _ _ _ _ (by rw [data_bytes_length]; exact ha)

/-- Each byte of an aligned access to KEY or MSG is itself in KEY or MSG, at its offset. -/
theorem store_byte_place {off : BitVec 11} {n : Size} {k : Nat} (hp : place off = .key ∨ place off = .msg)
    (ha : off.toNat % n.bytes = 0) (hk : k < n.bytes) :
    (BitVec.ofNat 11 (off.toNat + k)).toNat = off.toNat + k ∧ isBuffer (BitVec.ofNat 11 (off.toNat + k)) := by
  have range := aligned_store_range hp ha
  have toNat : (BitVec.ofNat 11 (off.toNat + k)).toNat = off.toNat + k := by
    rw [BitVec.toNat_ofNat]; omega
  rw [isBuffer, place_key, place_digest, place_msg, toNat]
  exact ⟨rfl, by omega⟩

/-- A byte just stored is the one that a byte read at its offset answers. -/
theorem readResponse_storeBytes {off : BitVec 11} {d : Data} {k : Nat} (s : State) (wf : s.mem.wf = true)
    (hp : place off = .key ∨ place off = .msg) (ha : off.toNat % d.size.bytes = 0) (hk : k < d.size.bytes) :
    readResponse (BitVec.ofNat 11 (off.toNat + k)) .one (s.storeBytes off d) =
      .data (.b1 (d.word.extractLsb' (8 * k) 8)) := by
  obtain ⟨toNat, hbyte⟩ := store_byte_place hp ha hk
  rw [readResponse_buffer _ (buffer_access_performed hbyte (Nat.mod_one _)) hbyte, Memory.readData, toNat,
    read_storeBytes s wf hk]

/-! ## The step that changes DIGEST (R65) -/

theorem StepCase.digest_writer {e : Event} {u t : State} (h : StepCase e u t) (hr : e ≠ .reset) {a : Nat}
    (hlo : 0x140 ≤ a) (hhi : a < 0x160) (hne : t.mem.read a ≠ u.mem.read a) : ∃ d, t = u.secondResponse d := by
  cases h with
  | reset he => exact absurd he hr
  | second m he hp hk ht => exact ⟨_, ht⟩
  | store off d he hb hp ha ht =>
    have range := aligned_store_range hp ha
    subst t
    exact absurd (read_storeBytes_ne u (by omega)) hne
  | _ => subst t; exact absurd rfl hne

/-- The second response stores in DIGEST only (R103). -/
theorem read_secondResponse_ne (s : State) (d : Bytes32) {a : Nat} (ha : a < 0x140 ∨ 0x160 ≤ a) :
    (s.secondResponse d).mem.read a = s.mem.read a :=
  read_writeBytes_ne _ _ _ _ (by simpa [digestBase] using ha)

/-! ## What the CRC operations look at (R63) -/

/-- A CRC operation is a read of CTRL, CRC_ACC, CRC_RESULT or TABLE, a write of CTRL or CRC_ACC, or a CRC command. -/
theorem crcOp_cases {e : Event} (h : e.isCrcOp = true) :
    (∃ off n, e = .access (.read off n) ∧ place off ∈ [Place.ctrl, .crcAcc, .crcResult, .table]) ∨
    (∃ v, e = .access (.write 0x004 (.b4 v))) ∨ (∃ v, e = seedWrite v) ∨ e = cmdWrite (encode .crcInit) ∨
    ∃ b, e = cmdWrite (encode (.crcByte b)) := by
  cases e with
  | engine | lateResponse _ | reset => simp [Event.isCrcOp, Event.writesCrc] at h
  | access a =>
    cases a with
    | read off n =>
      simp only [Event.isCrcOp, Bool.or_eq_true, Bool.and_eq_true, beq_iff_eq] at h
      refine .inl ⟨off, n, rfl, ?_⟩
      rcases h with ⟨-, (rfl | rfl) | rfl⟩ | ⟨-, hp⟩
      · decide
      · decide
      · decide
      · simp [hp]
    | write off d =>
      cases d with
      | b1 _ | b2 _ => simp [Event.isCrcOp, Event.writesCrc] at h
      | b4 v =>
        simp only [Event.isCrcOp, Event.writesCrc, Bool.or_eq_true, Bool.and_eq_true, beq_iff_eq] at h
        rcases h with (rfl | rfl) | ⟨rfl, h⟩
        · exact .inr (.inl ⟨v, rfl⟩)
        · exact .inr (.inr (.inl ⟨v, rfl⟩))
        · split at h
          · next hw => exact .inr (.inr (.inr (.inl (encode_of_decode hw ▸ rfl))))
          · next b hw => exact .inr (.inr (.inr (.inr ⟨b, encode_of_decode hw ▸ rfl⟩)))
          · cases h

theorem readResponse_withKdOf {off : BitVec 11} (n : Size) (s k : State)
    (hp : place off ∈ [Place.ctrl, .crcAcc, .crcResult, .table]) :
    readResponse off n (s.withKdOf k) = readResponse off n s := by
  simp only [List.mem_cons, List.not_mem_nil, or_false] at hp
  rcases hp with hp | hp | hp | hp <;> simp only [readResponse, memRead, hp] <;> rfl

/-- A CRC operation does the same to a state whatever KD state and STATUS are beside it. -/
theorem act_withKdOf {e : Event} (he : e.isCrcOp = true) {s t : State} (h : act e s = .next t) (k : State) :
    act e (s.withKdOf k) = .next (t.withKdOf k) := by
  rcases crcOp_cases he with ⟨off, n, rfl, hp⟩ | ⟨v, rfl⟩ | ⟨v, rfl⟩ | rfl | ⟨b, rfl⟩
  · rw [act_read] at h ⊢
    cases h
    rw [readResponse_withKdOf n s k hp]; rfl
  · rw [act_ctrlWrite] at h ⊢
    cases h; rfl
  · rw [act_seedWrite] at h ⊢
    cases h; rfl
  · rw [act_command] at h ⊢
    cases h; rfl
  · rw [act_command] at h ⊢
    cases h; rfl

/-! ## What the KD operations look at (R63) -/

/-- The locations of the KD unit, STATUS among them. -/
def kdPlaces : List Place := [.status, .kdMlen, .kdKlen, .key, .digest, .msg]

/-- A KD operation is an access to a location of the KD unit, an engine step, KD_START or STAT_CLR. -/
theorem kdOp_cases {e : Event} (h : e.isKdOp = true) :
    (∃ off n, e = .access (.read off n) ∧ place off ∈ kdPlaces) ∨
    (∃ off d, e = .access (.write off d) ∧ place off ∈ kdPlaces) ∨ e = .engine ∨ e = cmdWrite (encode .kdStart) ∨
    e = cmdWrite (encode .statClr) := by
  cases e with
  | lateResponse _ | reset => simp [Event.isKdOp] at h
  | engine => exact .inr (.inr (.inl rfl))
  | access a =>
    cases a with
    | read off n => exact .inl ⟨off, n, rfl, List.contains_iff_mem.1 h⟩
    | write off d =>
      cases d with
      | b1 _ | b2 _ => exact .inr (.inl ⟨off, _, rfl, List.contains_iff_mem.1 h⟩)
      | b4 v =>
        simp only [Event.isKdOp, Bool.or_eq_true, Bool.and_eq_true, beq_iff_eq] at h
        rcases h with h | ⟨rfl, rfl | rfl⟩
        · exact .inr (.inl ⟨off, _, rfl, List.contains_iff_mem.1 h⟩)
        · exact .inr (.inr (.inr (.inl rfl)))
        · exact .inr (.inr (.inr (.inr rfl)))

theorem readResponse_withCrcOf {off : BitVec 11} (n : Size) (s c : State) (hp : place off ∈ kdPlaces) :
    readResponse off n (s.withCrcOf c) = readResponse off n s := by
  simp only [kdPlaces, List.mem_cons, List.not_mem_nil, or_false] at hp
  rcases hp with hp | hp | hp | hp | hp | hp <;> simp only [readResponse, memRead, hp] <;> rfl

/-- The lock does not look at CRC state. -/
theorem unlessLocked_withCrcOf (s w c : State) :
    (s.withCrcOf c).unlessLocked (w.withCrcOf c) = (s.unlessLocked w).withCrcOf c := by
  cases hb : s.busy with
  | true => rw [unlessLocked_busy s w hb, unlessLocked_busy (s.withCrcOf c) _ hb]; rfl
  | false => rw [unlessLocked_free s w hb, unlessLocked_free (s.withCrcOf c) _ hb]

theorem memWrite_withCrcOf {off : BitVec 11} (d : Data) {s t : State} (hp : place off ∈ kdPlaces)
    (h : memWrite off d s = .next t) (c : State) : memWrite off d (s.withCrcOf c) = .next (t.withCrcOf c) := by
  simp only [kdPlaces, List.mem_cons, List.not_mem_nil, or_false] at hp
  rcases hp with hp | hp | hp | hp | hp | hp <;> simp only [memWrite, hp] at h ⊢ <;> cases h
  · rfl
  · exact congrArg Host.Outcome.next (unlessLocked_withCrcOf s (s.setKdMlen d.word) c)
  · exact congrArg Host.Outcome.next (unlessLocked_withCrcOf s (s.setKdKlen d.word) c)
  · exact congrArg Host.Outcome.next (unlessLocked_withCrcOf s (s.storeBytes off d) c)
  · rfl
  · exact congrArg Host.Outcome.next (unlessLocked_withCrcOf s (s.storeBytes off d) c)

theorem acceptStart_withCrcOf (s c : State) : (s.withCrcOf c).acceptStart = s.acceptStart.withCrcOf c := by
  simp only [State.acceptStart, apply_ite (State.withCrcOf · c)]
  rfl

theorem engineStep_withCrcOf (s c : State) : (s.withCrcOf c).engineStep = s.engineStep.withCrcOf c := by
  obtain ⟨_, _, _, _, _, _, kdState, _, pend, _, _, _⟩ := s
  cases pend with
  | none => rfl
  | some m => cases kdState <;> rfl

/-- KD_START does not look at CRC state. -/
theorem exec_kdStart_withCrcOf {s t : State} (h : exec .kdStart s = .next t) (c : State) :
    exec .kdStart (s.withCrcOf c) = .next (t.withCrcOf c) := by
  simp only [exec, execKdStart] at h ⊢
  cases h
  rw [acceptStart_withCrcOf, unlessLocked_withCrcOf]

/-- A KD operation does the same to a state whatever CRC state is beside it. -/
theorem act_withCrcOf {e : Event} (he : e.isKdOp = true) {s t : State} (h : act e s = .next t) (c : State) :
    act e (s.withCrcOf c) = .next (t.withCrcOf c) := by
  rcases kdOp_cases he with ⟨off, n, rfl, hp⟩ | ⟨off, d, rfl, hp⟩ | rfl | rfl | rfl
  · rw [act_read] at h ⊢
    cases h
    rw [readResponse_withCrcOf n s c hp]; rfl
  · by_cases hr : accessRejected off d.size
    · rw [act_write_rejected _ hr] at h ⊢
      cases h; rfl
    · rw [act_write _ hr] at h ⊢
      exact memWrite_withCrcOf d hp h c
  · cases h
    exact congrArg Host.Outcome.next (engineStep_withCrcOf s c)
  · rw [act_command] at h ⊢
    exact exec_kdStart_withCrcOf h c
  · rw [act_command] at h ⊢
    cases h; rfl

/-- A step that answers a next state, with an event other than reset to come, is that event happening. -/
theorem act_of_step {s t : State} {e : Event} {rest : List Event} (hi : s.inputs = e :: rest) (hr : e ≠ .reset)
    (h : step s = .next t) : s.errReserved = false ∧ act e (s.setInputs rest) = .next t := by
  cases he : s.errReserved with
  | false => exact ⟨rfl, step_event s e rest hi he ▸ h⟩
  | true =>
    rcases step_inversion s t h with ⟨h0, -⟩ | ⟨e', rest', u, hi', legal, -⟩
    · rw [hi] at h0; cases h0
    · obtain ⟨rfl, rfl⟩ := List.cons.inj (hi.symm.trans hi')
      rw [legal hr] at he; cases he

theorem step_withKdOf {s k t : State} {e : Event} {rest : List Event} (hk : k.errReserved = false)
    (hi : s.inputs = e :: rest) (he : e.isCrcOp = true) (h : step s = .next t) :
    step (s.withKdOf k) = .next (t.withKdOf k) := by
  have hr : e ≠ .reset := by rintro rfl; simp [Event.isCrcOp, Event.writesCrc] at he
  rw [step_event (s.withKdOf k) e rest hi hk]
  exact act_withKdOf he (act_of_step hi hr h).2 k

theorem step_withCrcOf {s t : State} {e : Event} {rest : List Event} (hi : s.inputs = e :: rest)
    (he : e.isKdOp = true) (h : step s = .next t) (c : State) : step (s.withCrcOf c) = .next (t.withCrcOf c) := by
  have hr : e ≠ .reset := by rintro rfl; simp [Event.isKdOp] at he
  obtain ⟨legal, ha⟩ := act_of_step hi hr h
  rw [step_event (s.withCrcOf c) e rest hi legal]
  exact act_withCrcOf he ha c

end Sys2Proof.Machine
end

section
/-! CERTIFICATES. The statements about host accesses (spec/20_memory.md), settled. -/

namespace Sys2Proof.Certificates

open Sys2Proof.Machine

/-- Settles O37: registers by evaluation at their offsets, the windows byte by byte. -/
theorem memReadStep : Obligations.MemReadStep := by
  intro s off n rest he hi
  refine ⟨readResponse off n s, step_read he hi, readResponse_rejected s, fun h => ?_⟩
  have four : off.toNat < 0x020 → n = .four := fun hr => (register_access off n (busFault_false off n h) hr).1
  iterate 8 refine ⟨by rintro rfl; obtain rfl := four (by decide); rfl, ?_⟩
  refine ⟨fun hp => ?_, fun hp => ?_⟩
  · rw [← place_key, ← place_digest, ← place_msg] at hp
    exact ⟨_, readResponse_buffer s h hp, readData_size _ _ _, readData_bytes _ _ _⟩
  · rw [← place_table] at hp
    exact ⟨_, readResponse_table s h hp, dataAt_size _ _ _, dataAt_bytes _ _ _⟩

/-- Settles O38: registers by evaluation at their offsets, the buffers by the rules of the lock and of stored bytes. -/
theorem memWriteStep : Obligations.MemWriteStep := by
  intro s off d rest he hi ok
  refine ⟨step_write_rejected he hi, fun h => ?_⟩
  rw [step_write he hi h]
  change (_ → memWrite off d ok = _) ∧ _
  refine ⟨?_, fun hp => ?_, ?_, ?_, ?_, fun hl hb => ?_, ?_, ?_, fun hp hb wf => ?_⟩
  · rintro (rfl | rfl | rfl) <;> rfl
  · rw [← place_digest, ← place_table] at hp
    exact memWrite_readOnly d ok hp
  · rintro rfl; rfl
  · rintro rfl
    refine ⟨fun i hd => ?_, fun hd => ⟨_, ?_, raise_illegal_statusIs ok⟩⟩
    · show runCommand d.word ok = _
      rw [runCommand, hd]
    · show runCommand d.word ok = _
      rw [runCommand, hd]
      rfl
  · rintro rfl; rfl
  · exact ⟨_, memWrite_locked d ok hl hb, setWign_statusIs ok hb⟩
  · rintro rfl hb
    exact congrArg Host.Outcome.next (unlessLocked_free ok _ hb)
  · rintro rfl hb
    exact congrArg Host.Outcome.next (unlessLocked_free ok _ hb)
  · rw [← place_key, ← place_msg] at hp
    refine ⟨_, memWrite_store_free d ok hp hb, fun k hk => ?_, fun a ha => ?_⟩
    · exact read_storeBytes ok wf hk
    · exact read_storeBytes_ne ok ha

/-- Settles O39, by the lock: both kinds of write only set WIGN. -/
theorem lockedWritesAreDiscarded : Obligations.LockedWritesAreDiscarded := by
  refine ⟨fun s e rest he hb hi hw => ?_, fun s off n st hl => readResponse_lockable_status n s st hl⟩
  have discarded : step s = .next (((s.setInputs rest).respond .writeOk).setWign true) := by
    rcases hw with rfl | ⟨off, d, rfl, hl, hn⟩
    · rw [step_event s _ rest hi he, act_command]
      exact exec_kdStart_locked _ hb
    · rw [step_write he hi hn]
      exact memWrite_locked d _ hl hb
  exact ⟨_, discarded, setWign_statusIs _ hb⟩

/-- Settles O40: the write stores byte `k` of the value at `off + k`, where the read finds it. -/
theorem littleEndianReadBack : Obligations.LittleEndianReadBack := by
  intro s off d k rest he hb wf hp ha hk hi
  rw [← place_key, ← place_msg] at hp
  have hn : ¬ accessRejected off d.size := buffer_access_performed (hp.elim .inl (.inr ∘ .inr)) ha
  have stored := (step_write he hi hn).trans (memWrite_store_free d _ hp hb)
  refine ⟨_, .writeOk :: s.responses, (run_step 1 s _ stored).trans (run_step 0 _ _ (step_read he rfl)), rfl, ?_⟩
  exact congrArg (· :: _) (readResponse_storeBytes _ wf hp ha hk)

/-- Settles O44: an operation that commutes with every change of the other unit's part commutes with the change to what
the part was, so it leaves it unchanged. -/
theorem unitsAreIndependent : Obligations.UnitsAreIndependent := by
  refine ⟨fun s k t e rest hs hk hi he h => ⟨?_, step_withKdOf hk hi he h⟩,
    fun s c t e rest hi he h => ⟨?_, step_withCrcOf hi he h c⟩⟩
  · have same : step s = .next (t.withKdOf s) := step_withKdOf hs hi he h
    rw [h] at same
    exact Host.Outcome.next.inj same
  · have same : step s = .next (t.withCrcOf s) := step_withCrcOf hi he h s
    rw [h] at same
    exact Host.Outcome.next.inj same

/-- Settles O47: the only step that changes DIGEST is the second response. -/
theorem digestChangesOnlyAtCompletion : Obligations.DigestChangesOnlyAtCompletion := by
  intro s t e rest i hi h hr hlt hne
  obtain ⟨rs, hc⟩ := stepCase_of_step hi h
  obtain ⟨d, rfl⟩ := hc.digest_writer hr (by omega) (by omega) hne
  obtain ⟨busy, done, -⟩ := secondResponse_spec ((s.setInputs rest).setResponses rs) d
  exact ⟨busy, done, rfl, fun a ha => read_secondResponse_ne _ d ha⟩

/-- Settles O42: an offset in the window is kept, and any address outside it fails the test of R52. -/
theorem addressDecodeRelativeToBase : Obligations.AddressDecodeRelativeToBase := by
  intro base addr n d
  refine ⟨fun off h => ?_, fun off h => ?_, fun h => ?_, fun h => ?_⟩
  · rw [busReadEvent, windowOffset_inside base off n h, Option.map_some]
  · rw [busWriteEvent, windowOffset_inside base off d.size h, Option.map_some]
  · rw [busReadEvent, windowOffset_outside base addr n h, Option.map_none]
  · rw [busWriteEvent, windowOffset_outside base addr d.size h, Option.map_none]

end Sys2Proof.Certificates
end

section
/-! SUPPORT. Command words (spec/30_encoding.md sections 2 to 4): the words that decode are those of the instructions, the
rows of the opcode table and the fields of the command format say the same of a word, and the instructions listed. -/

namespace Sys2Proof.Machine

/-- Decoding and encoding are inverse: a word decodes to `i` exactly when it is the word of `i` (R78). -/
theorem decode_eq_ok_iff {w : Word} {i : Instr} : decode w = .ok i ↔ encode i = w :=
  ⟨encode_of_decode, by rintro rfl; exact decode_encode i⟩

theorem encode_injective : Function.Injective encode := fun i j h =>
  Except.ok.inj ((decode_encode i).symm.trans (h ▸ decode_encode j))

/-! ## The opcode table (R72) -/

/-- The mnemonic determines the row. -/
theorem opcodeRow_eq_of_mnemonic : ∀ r ∈ opcodeRows, ∀ r' ∈ opcodeRows, r.mnemonic = r'.mnemonic → r = r' := by
  decide

/-- The word of an instruction selects the row with the instruction's mnemonic. -/
theorem encode_selects_row (i : Instr) : ∃ r ∈ opcodeRows, r.mnemonic = i.mnemonic ∧ encode i &&& r.mask = r.pattern := by
  cases i with
  | nop | crcInit | kdStart | statClr => decide
  | crcByte b => exact ⟨⟨"CRC_BYTE", 0xFFFFFF00, 0x02000000⟩, by decide, rfl, by revert b; decide⟩

/-- A word selects a row exactly when it is the word of an instruction with the row's mnemonic. -/
theorem selects_row_iff {r : OpcodeRow} (hr : r ∈ opcodeRows) (w : Word) :
    w &&& r.mask = r.pattern ↔ ∃ i, encode i = w ∧ i.mnemonic = r.mnemonic := by
  constructor
  · intro h
    have whole : ∀ {p : Word}, w &&& 0xFFFFFFFF#32 = p → p = w := fun h => h ▸ BitVec.and_allOnes
    simp only [opcodeRows, List.mem_cons, List.not_mem_nil, or_false] at hr
    rcases hr with rfl | rfl | rfl | rfl | rfl
    · exact ⟨.nop, whole h, rfl⟩
    · exact ⟨.crcInit, whole h, rfl⟩
    · exact ⟨.crcByte _, encode_crcByte_low w h, rfl⟩
    · exact ⟨.kdStart, whole h, rfl⟩
    · exact ⟨.statClr, whole h, rfl⟩
  · rintro ⟨i, rfl, hm⟩
    obtain ⟨r', hr', hm', h⟩ := encode_selects_row i
    exact opcodeRow_eq_of_mnemonic r' hr' r hr (hm'.trans hm) ▸ h

/-! ## The fields of the command format (R71, R73) -/

/-- A word is its three fields side by side. -/
theorem word_eq_fields (w : Word) : opField w ++ rsvField w ++ immField w = w := by
  apply BitVec.eq_of_getLsbD_eq
  intro i hi
  simp only [opField, rsvField, immField, BitVec.getLsbD_append, BitVec.getLsbD_extractLsb', Nat.zero_add]
  split_ifs
  · simp [*]
  · simp [show i - 8 < 16 by omega, show 8 + (i - 8) = i by omega]
  · simp [show i - 8 - 16 < 8 by omega, show 24 + (i - 8 - 16) = i by omega]

theorem commandWellFormed_iff (w : Word) : commandWellFormed w = true ↔
    (opField w ∈ [0x00#8, 0x01#8, 0x02#8, 0x10#8, 0x20#8] ∧ rsvField w = 0x0000#16 ∧
      (opField w ≠ 0x02#8 → immField w = 0x00#8)) := by
  have imm : immediateLegal w = true ↔ (opField w ≠ 0x02#8 → immField w = 0x00#8) := by
    rw [immediateLegal, Bool.or_eq_true, beq_iff_eq, beq_iff_eq]
    exact or_iff_not_imp_left
  simp only [commandWellFormed, opcodeListed, reservedZero, imm, Bool.and_eq_true, Bool.or_eq_true, beq_iff_eq,
    List.mem_cons, List.not_mem_nil, or_false, or_assoc, and_assoc]
  rfl

/-- The word of every instruction is well formed, constructor by constructor. -/
theorem encode_wellFormed (i : Instr) : commandWellFormed (encode i) = true := by
  cases i with
  | nop => exact Laws.EncodingLegal.nop
  | crcInit => exact Laws.EncodingLegal.crcInit
  | crcByte b => exact Laws.EncodingLegal.crcByte b
  | kdStart => exact Laws.EncodingLegal.kdStart
  | statClr => exact Laws.EncodingLegal.statClr

/-- The well-formed words are the words of the instructions. -/
theorem commandWellFormed_iff_encode (w : Word) : commandWellFormed w = true ↔ ∃ i, encode i = w := by
  refine ⟨fun h => ?_, by rintro ⟨i, rfl⟩; exact encode_wellFormed i⟩
  obtain ⟨op, rsv, imm⟩ := (commandWellFormed_iff w).1 h
  have fields := word_eq_fields w
  simp only [List.mem_cons, List.not_mem_nil, or_false] at op
  rcases op with op | op | op | op | op <;> rw [op, rsv] at fields
  · exact ⟨.nop, by rwa [imm (by rw [op]; decide)] at fields⟩
  · exact ⟨.crcInit, by rwa [imm (by rw [op]; decide)] at fields⟩
  · exact ⟨.crcByte (immField w), fields⟩
  · exact ⟨.kdStart, by rwa [imm (by rw [op]; decide)] at fields⟩
  · exact ⟨.statClr, by rwa [imm (by rw [op]; decide)] at fields⟩

/-! ## The instructions, listed (R74) -/

/-- Every instruction: the four without an operand, and CRC_BYTE with each byte. -/
def instrList : List Instr :=
  [.nop, .crcInit, .kdStart, .statClr] ++ (List.finRange 256).map (fun n => .crcByte (BitVec.ofFin n))

theorem instrList_length : instrList.length = 260 := by
  simp [instrList]

theorem mem_instrList (i : Instr) : i ∈ instrList := by
  cases i with
  | nop | crcInit | kdStart | statClr => simp [instrList]
  | crcByte b => exact List.mem_append_right _ (List.mem_map.2 ⟨b.toFin, List.mem_finRange _, rfl⟩)

theorem instrList_nodup : instrList.Nodup := by
  have bytes : ((List.finRange 256).map (fun n => Instr.crcByte (BitVec.ofFin n))).Nodup :=
    (List.nodup_finRange 256).map fun m n h => congrArg BitVec.toFin (Instr.crcByte.inj h)
  refine List.nodup_append.2 ⟨by decide, bytes, ?_⟩
  simp

end Sys2Proof.Machine
end

section
/-! SUPPORT. The stores of the host statements (spec/30_encoding.md R80): a run of writes of one size, one after another, to
KEY or MSG stores the bytes of the values in order. -/

namespace Sys2Proof.Machine

theorem writeBytes_append (m : Memory) (a : Nat) (xs ys : List Byte) :
    m.writeBytes a (xs ++ ys) = (m.writeBytes a xs).writeBytes (a + xs.length) ys := by
  induction xs generalizing m a with
  | nil => rfl
  | cons x xs ih =>
    rw [List.cons_append, Memory.writeBytes, ih, Memory.writeBytes, List.length_cons, Nat.add_right_comm, Nat.add_assoc]

/-- The writes of the values `ds`, each at the offset where the one before it ends, from offset `a` up. -/
def storesFrom (a : Nat) : List Data → List Access
  | [] => []
  | d :: ds => .write (BitVec.ofNat 11 a) d :: storesFrom (a + d.size.bytes) ds

/-- One aligned store to KEY or MSG while not BUSY. -/
theorem step_store {s : State} {off : BitVec 11} {d : Data} {rest : List Event} (he : s.errReserved = false)
    (hb : s.busy = false) (hp : place off = .key ∨ place off = .msg) (ha : off.toNat % d.size.bytes = 0)
    (hi : s.inputs = .access (.write off d) :: rest) :
    step s = .next (((s.setInputs rest).respond .writeOk).storeBytes off d) :=
  (step_write he hi (buffer_access_performed (hp.elim .inl (.inr ∘ .inr)) ha)).trans (memWrite_store_free d _ hp hb)

/-- Aligned stores of one size within KEY or within MSG, while not BUSY, store their bytes in order; besides the storage
they change only the events to come and the responses. -/
theorem run_storesFrom {n : Size} {ds : List Data} (size : ∀ d ∈ ds, d.size = n) {a : Nat} (aligned : a % n.bytes = 0)
    (range : (0x100 ≤ a ∧ a + n.bytes * ds.length ≤ 0x120) ∨ (0x200 ≤ a ∧ a + n.bytes * ds.length ≤ 0x300))
    {s : State} {rest : List Event} (he : s.errReserved = false) (hb : s.busy = false)
    (hi : s.inputs = (storesFrom a ds).map .access ++ rest) :
    ∃ rs, run ds.length s =
      .next (((s.setInputs rest).setResponses rs).setMem (s.mem.writeBytes a (ds.flatMap Data.bytes))) := by
  induction ds generalizing a s with
  | nil => exact ⟨s.responses, by rw [← show s.inputs = rest from hi]; rfl⟩
  | cons d ds ih =>
    obtain rfl : d.size = n := size d List.mem_cons_self
    rw [List.length_cons, Nat.mul_succ] at range
    have pos : 0 < d.size.bytes := by cases d <;> exact Nat.succ_pos _
    have toNat : (BitVec.ofNat 11 a).toNat = a := by rw [BitVec.toNat_ofNat]; omega
    have stored := step_store he hb (by rw [place_key, place_msg, toNat]; omega) (by rw [toNat]; exact aligned) hi
    obtain ⟨rs, others⟩ := ih
      (s := ((s.setInputs ((storesFrom _ ds).map .access ++ rest)).respond .writeOk).storeBytes _ d)
      (fun d' hd' => size d' (List.mem_cons_of_mem d hd'))
      (by rw [Nat.add_mod_right]; exact aligned) (by omega) he hb rfl
    refine ⟨rs, (run_step _ _ _ stored).trans (others.trans ?_)⟩
    rw [List.flatMap_cons, writeBytes_append, data_bytes_length]
    simp only [State.storeBytes, setMem_mem, respond_mem, setInputs_mem, toNat]
    rfl

theorem map_toNat_map_ofNat {ks : List Nat} (h : ks.all fitsByte = true) :
    (ks.map (BitVec.ofNat 8)).map BitVec.toNat = ks := by
  rw [List.map_map]
  refine (List.map_congr_left fun k hk => ?_).trans (List.map_id ks)
  have : k < 2 ^ 8 := of_decide_eq_true (List.all_eq_true.1 h k hk)
  exact (BitVec.toNat_ofNat k 8).trans (Nat.mod_eq_of_lt this)

section load
variable (m : Memory) (a : Nat) {ks : List Nat}

/-- The numbers just stored as bytes are read back. -/
theorem bytesAt_writeBytes_ofNat (wf : m.wf = true) (fits : ks.all fitsByte = true) :
    ((m.writeBytes a (ks.map (BitVec.ofNat 8))).bytesAt a ks.length).map BitVec.toNat = ks := by
  have stored := bytesAt_writeBytes m a (ks.map (BitVec.ofNat 8)) wf
  rw [List.length_map] at stored
  rw [stored, map_toNat_map_ofNat fits]

theorem read_writeBytes_ofNat_ne {x : Nat} (hx : x < a ∨ a + ks.length ≤ x) :
    (m.writeBytes a (ks.map (BitVec.ofNat 8))).read x = m.read x :=
  read_writeBytes_ne m a _ x (by rwa [List.length_map])

end load

/-! ## The words of `kd.key` -/

/-- The `j`-th word of a key, little-endian. -/
def keyWord (ks : List Nat) (j : Nat) : Data :=
  .b4 (BitVec.ofNat 8 (ks.getD (4 * j + 3) 0) ++ BitVec.ofNat 8 (ks.getD (4 * j + 2) 0) ++
    BitVec.ofNat 8 (ks.getD (4 * j + 1) 0) ++ BitVec.ofNat 8 (ks.getD (4 * j) 0))

theorem kdKey_accesses (ks : List Nat) :
    (HostStmt.kdKey ks).accesses = storesFrom 0x100 ((List.range 8).map (keyWord ks)) := rfl

/-- Four bytes side by side are what a read of a storage that holds them answers, so `readData_bytes` says their order. -/
theorem b4_append_bytes (x3 x2 x1 x0 : Byte) : (Data.b4 (x3 ++ x2 ++ x1 ++ x0)).bytes = [x0, x1, x2, x3] :=
  readData_bytes ⟨[(0, x0), (1, x1), (2, x2), (3, x3)]⟩ 0 .four

/-- The words of a 32-byte key hold its bytes in order. -/
theorem keyWords_bytes {ks : List Nat} (h : ks.length = 32) :
    ((List.range 8).map (keyWord ks)).flatMap Data.bytes = ks.map (BitVec.ofNat 8) := by
  have bytes : ((List.range 8).map (keyWord ks)).flatMap Data.bytes =
      (List.range 32).map (fun i => BitVec.ofNat 8 (ks.getD i 0)) := by
    simp only [List.flatMap_map, keyWord, b4_append_bytes]
    rfl
  rw [bytes]
  refine List.ext_getElem (by simp [h]) fun i _ hi => ?_
  simp only [List.getElem_map, List.getElem_range, List.getD_eq_getElem _ _ (by simpa using hi)]

/-! ## The bytes of `kd.msg` -/

theorem msgByteAccesses_eq_storesFrom (i : Nat) (bs : List Nat) :
    msgByteAccesses i bs = storesFrom (0x200 + i) (bs.map fun b => .b1 (BitVec.ofNat 8 b)) := by
  induction bs generalizing i with
  | nil => rfl
  | cons b bs ih => exact congrArg (_ :: ·) (ih (i + 1))

theorem kdMsg_accesses (bs : List Nat) : (HostStmt.kdMsg bs).accesses =
    storesFrom 0x200 (bs.map fun b => .b1 (BitVec.ofNat 8 b)) ++ [.write 0x018 (.b4 (BitVec.ofNat 32 bs.length))] :=
  congrArg (· ++ _) (msgByteAccesses_eq_storesFrom 0 bs)

theorem msgBytes_bytes (bs : List Nat) :
    (bs.map fun b => Data.b1 (BitVec.ofNat 8 b)).flatMap Data.bytes = bs.map (BitVec.ofNat 8) := by
  rw [List.flatMap_map, List.map_eq_flatMap]
  rfl

/-- A KD_MLEN write while not BUSY (R55). -/
theorem step_kdMlenWrite {s : State} {v : Word} {rest : List Event} (he : s.errReserved = false) (hb : s.busy = false)
    (hi : s.inputs = .access (.write 0x018 (.b4 v)) :: rest) :
    step s = .next (((s.setInputs rest).respond .writeOk).setKdMlen v) :=
  (step_write he hi (by decide : ¬ accessRejected 0x018 .four)).trans
    (congrArg Host.Outcome.next (unlessLocked_free _ _ hb))

end Sys2Proof.Machine
end

section
/-! CERTIFICATES. The statements about command words and the host statements (spec/30_encoding.md), settled. -/

namespace Sys2Proof.Certificates

open Sys2Proof.Machine

/-- Settles O6, instruction by instruction. -/
theorem decodeEncodeAgree : Obligations.DecodeEncodeAgree := decode_encode

/-- Settles O5: a selected row is that of the word's instruction, and the mnemonic determines the row. -/
theorem decodeFollowsOpcodeTable : Obligations.DecodeFollowsOpcodeTable := by
  refine ⟨rfl, fun w r r' hr hr' h h' => ?_, fun w r hr => ?_⟩
  · obtain ⟨i, rfl, hm⟩ := (selects_row_iff hr w).1 h
    obtain ⟨i', he, hm'⟩ := (selects_row_iff hr' _).1 h'
    obtain rfl := encode_injective he
    exact opcodeRow_eq_of_mnemonic r hr r' hr' (hm.symm.trans hm')
  · simp only [decode_eq_ok_iff, selects_row_iff hr w]

/-- Settles O7, along the tests of the decoder. -/
theorem encodeDecodeAgree : Obligations.EncodeDecodeAgree := fun _ _ => encode_of_decode

/-- Settles O8: the words that decode are those of the instructions, and these are the well-formed ones. -/
theorem reservedBitsMustBeZero : Obligations.ReservedBitsMustBeZero := by
  intro w
  simp only [decode_eq_ok_iff, ← commandWellFormed_iff_encode]
  exact commandWellFormed_iff w

/-- Settles O9: the words of all instructions, which differ since encoding is injective. -/
theorem legalWordCount : Obligations.LegalWordCount := by
  refine ⟨instrList.map encode, by rw [List.length_map, instrList_length], instrList_nodup.map encode_injective,
    fun w => ?_⟩
  simp only [List.mem_map, mem_instrList, true_and, decode_eq_ok_iff]

/-- Settles O59: the eight words are stores from KEY's first byte up whose bytes are the key. -/
theorem kdKeyStatementLoadsKey : Obligations.KdKeyStatementLoadsKey := by
  intro s ks rest he hb wf hk hi
  obtain ⟨length, fits⟩ : ks.length = 32 ∧ ks.all fitsByte = true := by simpa [HostStmt.wellFormed] using hk
  rw [programEvents, List.flatMap_singleton, kdKey_accesses] at hi
  obtain ⟨rs, hrun⟩ := run_storesFrom (n := .four) (by simp [keyWord, Data.size]) rfl (by simp [Size.bytes]) he hb hi
  rw [keyWords_bytes length] at hrun
  have loaded := bytesAt_writeBytes_ofNat s.mem 0x100 wf fits
  rw [length] at loaded
  exact ⟨_, hrun, rfl, loaded, rfl, rfl, rfl, rfl, rfl, rfl, rfl,
    fun a ha => read_writeBytes_ofNat_ne _ _ (by rwa [length])⟩

/-- Settles O60: byte stores from MSG's first byte up, then the KD_MLEN write of their number. -/
theorem kdMsgStatementLoadsMessage : Obligations.KdMsgStatementLoadsMessage := by
  intro s bs rest he hb wf hm hi
  obtain ⟨length, fits⟩ : bs.length ≤ 256 ∧ bs.all fitsByte = true := by simpa [HostStmt.wellFormed] using hm
  rw [programEvents, List.flatMap_singleton, kdMsg_accesses, List.map_append, List.append_assoc] at hi
  obtain ⟨rs, stores⟩ := run_storesFrom (n := .one) (by simp [Data.size]) (Nat.mod_one _)
    (by simp [Size.bytes]; omega) he hb hi
  rw [msgBytes_bytes, List.length_map] at stores
  have hrun := (run_add _ 1 _ _ stores).trans (run_step 0 _ _ (step_kdMlenWrite he hb rfl))
  have mlen : (BitVec.ofNat 32 bs.length).toNat = bs.length := by rw [BitVec.toNat_ofNat]; omega
  refine ⟨_, hrun, rfl, ?_, bytesAt_congr _ _ _ _ fun i hlt => read_writeBytes_ofNat_ne _ _ (.inl ?_), rfl, rfl,
    fun a ha => read_writeBytes_ofNat_ne _ _ ha⟩
  · rw [setKdMlen_kdMlen, mlen]
    exact bytesAt_writeBytes_ofNat s.mem 0x200 wf fits
  · simp only [keyBase, Config.keySize] at hlt ⊢
    omega

/-- Settles O3: the event is the CMD write of `w`, and `w` runs the command it decodes to. -/
theorem stepRunsDecodedCommand : Obligations.StepRunsDecodedCommand := by
  intro s w i rest he hi hd
  rw [step_event s _ rest hi he]
  refine (act_cmdWrite w _).trans ?_
  rw [runCommand, hd]
  rfl

/-- Settles O4: the five words are those of the encoder; the three illegal ones fail every test of the decoder. -/
theorem sampleWordsDecode : Obligations.SampleWordsDecode :=
  ⟨decode_encode .nop, decode_encode .crcInit, decode_encode (.crcByte 0xA5), decode_encode .kdStart,
    decode_encode .statClr, by decide, by decide, by decide⟩

/-- Settles O58: a number written out of a word is that word again, and the word of CRC_BYTE is its opcode with the byte. -/
theorem hostStatementsAccesses : Obligations.HostStatementsAccesses := by
  refine ⟨rfl, rfl, fun b => ?_, rfl, rfl, fun w => ?_, fun off v => ?_, fun off v => ?_, fun off v => ?_,
    fun off => ?_, fun v => ?_, fun bs => ?_, rfl, fun again => ⟨List.length_replicate, fun a => List.eq_of_mem_replicate⟩,
    rfl⟩
  · simp only [HostStmt.accesses, BitVec.ofNat_toNat, BitVec.setWidth_eq, encode_crcByte]
    rfl
  · simp only [HostStmt.accesses, BitVec.ofNat_toNat, BitVec.setWidth_eq]
    rfl
  · simp only [HostStmt.accesses, BitVec.ofNat_toNat, BitVec.setWidth_eq]
  · simp only [HostStmt.accesses, BitVec.ofNat_toNat, BitVec.setWidth_eq]
  · simp only [HostStmt.accesses, BitVec.ofNat_toNat, BitVec.setWidth_eq]
  · simp only [HostStmt.accesses, BitVec.ofNat_toNat, BitVec.setWidth_eq, and_self]
  · simp only [HostStmt.accesses, BitVec.ofNat_toNat, BitVec.setWidth_eq]
  · simp only [HostStmt.accesses, List.map_map, Function.comp_def, BitVec.ofNat_toNat, BitVec.setWidth_eq, encode_crcByte]
    rfl

end Sys2Proof.Certificates
end

section
/-! SUPPORT. The CRC unit (spec/40_crc32.md): the table as the build of R82, its linearity and its entry 255, and what one
fold takes from it. -/

namespace Sys2Proof.Machine

/-! ## The table (R82) -/

/-- A round shifts, and adds the polynomial when the bit shifted out is set. -/
theorem crcRound_eq_xor (c : Word) : crcRound c = (c >>> 1) ^^^ (if c.getLsbD 0 then poly else 0) := by
  rw [crcRound]
  split
  · rfl
  · exact BitVec.xor_zero.symm

theorem crcRound_xor (c d : Word) : crcRound (c ^^^ d) = crcRound c ^^^ crcRound d := by
  have bits : ∀ p q : Bool,
      (if p ^^ q then poly else 0) = (if p then poly else 0) ^^^ (if q then poly else 0) := by decide
  simp only [crcRound_eq_xor, BitVec.getLsbD_xor, BitVec.ushiftRight_xor_distrib, bits]
  ac_rfl

theorem crcRounds_xor (n : Nat) (c d : Word) : crcRounds n (c ^^^ d) = crcRounds n c ^^^ crcRounds n d := by
  induction n generalizing c d with
  | zero => rfl
  | succ n ih => rw [crcRounds, crcRound_xor, ih]; rfl

theorem tableEntry_xor (a b : Byte) : tableEntry (a ^^^ b) = tableEntry a ^^^ tableEntry b := by
  rw [tableEntry, zext32, BitVec.setWidth_xor, crcRounds_xor]; rfl

/-- The full table is the build at every index. -/
theorem table_true (i : Byte) : table true i = tableEntry i := ite_self _

theorem table_of_ne_255 (fix : Bool) {i : Byte} (h : i ≠ 0xFF) : table fix i = tableEntry i := by
  have : i.toNat ≠ 255 := fun e => h (BitVec.eq_of_toNat_eq e)
  exact if_pos (by omega)

theorem table_false_255 : table false 0xFF = 0 := rfl

theorem tableEntry_255 : tableEntry 0xFF = 0x2D02EF8D := by decide

theorem table_false_ne_true_iff (i : Byte) : table false i ≠ table true i ↔ i = 0xFF := by
  constructor
  · exact fun h => by_contra fun hi => h ((table_of_ne_255 false hi).trans (table_of_ne_255 true hi).symm)
  · rintro rfl; decide

/-- A round tests the low bit, as R82 writes it. -/
theorem crcRound_eq (c : Word) :
    crcRound c = if c &&& 1#32 = 1#32 then (c >>> 1) ^^^ 0xEDB88320#32 else c >>> 1 := by
  rw [crcRound, BitVec.and_one_eq_setWidth_ofBool_getLsbD]
  cases c.getLsbD 0 <;> rfl

/-- The build of an entry: eight rounds from the byte. -/
theorem tableEntry_eq_foldl (i : Byte) :
    tableEntry i = (List.range 8).foldl
      (fun c _ => if c &&& 1#32 = 1#32 then (c >>> 1) ^^^ 0xEDB88320#32 else c >>> 1) (i.setWidth 32) := by
  simp only [← crcRound_eq]
  rfl

/-! ## One fold (R84, R88) -/

theorem exec_crcByte_of_t255fix {b : Byte} {s : State} {fix : Bool} (h : s.t255fix = fix) :
    exec (.crcByte b) s = .next (s.setCrcAcc (crcFold fix s.crcAcc b)) := by
  subst h; rfl

theorem crcIndex_eq (crc : Word) (b : Byte) : crcIndex crc b = crc.extractLsb' 0 8 ^^^ b := by
  have mask : (0xFF#32).setWidth 8 = BitVec.allOnes 8 := rfl
  rw [crcIndex, zext32, BitVec.setWidth_and, mask, BitVec.and_allOnes, BitVec.setWidth_xor,
    BitVec.setWidth_setWidth_of_le b (by decide), BitVec.setWidth_eq]
  rfl

theorem crcFold_topByte (fix : Bool) (crc : Word) (b : Byte) :
    (crcFold fix crc b).extractLsb' 24 8 = (table fix (crcIndex crc b)).extractLsb' 24 8 := by
  have top : (crc >>> 8).extractLsb' 24 8 = 0 := by
    ext i hi
    simp [BitVec.getLsbD_of_ge crc (8 + (24 + i)) (by omega)]
  rw [crcFold, BitVec.extractLsb'_xor, top]
  exact BitVec.zero_xor

/-- The two tables give different folds exactly at index 255 (R84). -/
theorem crcFold_ne_iff (crc : Word) (b : Byte) :
    crcFold false crc b ≠ crcFold true crc b ↔ crc.extractLsb' 0 8 ^^^ b = 0xFF := by
  rw [← crcIndex_eq, ← table_false_ne_true_iff]
  exact (BitVec.xor_right_inj _).not

/-- What the two tables give at index 255 (R84). -/
theorem crcFold_255 {crc : Word} {b : Byte} (h : crc.extractLsb' 0 8 ^^^ b = 0xFF) :
    crcFold false crc b = crc >>> 8 ∧ crcFold true crc b = (crc >>> 8) ^^^ 0x2D02EF8D#32 := by
  rw [← crcIndex_eq] at h
  rw [crcFold, crcFold, h, table_true, tableEntry_255]
  exact ⟨BitVec.xor_zero, rfl⟩

theorem fold_append (fix : Bool) (c : Word) (d d' : ByteString) : fold fix c (d ++ d') = fold fix (fold fix c d) d' := by
  induction d generalizing c with
  | nil => rfl
  | cons b d ih => exact ih _

end Sys2Proof.Machine
end

section
/-! SUPPORT. Sequences of CRC operations (spec/40_crc32.md section 3): what ordinary events leave of CRC_ACC when their only
writes of CRC state are CRC_BYTE commands. -/

namespace Sys2Proof.Machine

/-! ## One event -/

theorem StepCase.keeps_observed {e : Event} {u t : State} (h : StepCase e u t) :
    t.inputs = u.inputs ∧ t.responses = u.responses := by
  cases h with
  | _ => subst t; exact ⟨rfl, rfl⟩

theorem StepCase.keeps_errLegal {e : Event} {u t : State} (h : StepCase e u t) (hu : u.errReserved = false) :
    t.errReserved = false := by
  rw [errReserved_eq_false_iff] at hu ⊢
  rcases h.err_cases with h | h | ⟨c, h⟩ <;> rw [h]
  · exact hu
  · decide
  · exact code_le c

theorem writesCrc_crcInit : (cmdWrite (encode .crcInit)).writesCrc = true := rfl

theorem writesCrc_crcByte (b : Byte) : (cmdWrite (encode (.crcByte b))).writesCrc = true := by
  simp [cmdWrite, Event.writesCrc, decode_encode]

/-- Only a write of CRC state, or reset, changes CTRL or CRC_ACC (R42). -/
theorem StepCase.keeps_crc {e : Event} {u t : State} (h : StepCase e u t) (hr : e ≠ .reset) (hw : e.writesCrc = false) :
    t.ctrl = u.ctrl ∧ t.crcAcc = u.crcAcc := by
  refine ⟨by_contra fun hne => ?_, by_contra fun hne => ?_⟩
  · obtain ⟨v, rfl⟩ := h.ctrl_writer hr hne
    cases hw
  · rcases h.crcAcc_writer hr hne with ⟨v, rfl⟩ | rfl | ⟨b, rfl⟩
    · cases hw
    · cases writesCrc_crcInit.symm.trans hw
    · cases (writesCrc_crcByte b).symm.trans hw

/-! ## Sequences -/

/-- Ordinary events whose only writes of CRC state are the CRC_BYTE commands of `d`, in order (R90). -/
structure FoldsOnly (es : List Event) (d : ByteString) : Prop where
  ordinary : es.all Event.isOrdinary = true
  writes : es.filter Event.writesCrc = foldEvents d

theorem foldsOnly_nil {d : ByteString} (h : FoldsOnly [] d) : d = [] := List.map_eq_nil_iff.1 h.writes.symm

/-- The first of such events folds nothing or the first byte. -/
theorem foldsOnly_cons {e : Event} {es : List Event} {d : ByteString} (h : FoldsOnly (e :: es) d) :
    (e.isOrdinary = true ∧ e.writesCrc = false ∧ FoldsOnly es d) ∨
      ∃ b d', e = cmdWrite (encode (.crcByte b)) ∧ d = b :: d' ∧ FoldsOnly es d' := by
  obtain ⟨ordinary, writes⟩ := h
  obtain ⟨first, others⟩ : e.isOrdinary = true ∧ es.all Event.isOrdinary = true := by simpa using ordinary
  cases hc : e.writesCrc with
  | false => exact .inl ⟨first, rfl, others, by rwa [List.filter_cons_of_neg (by simp [hc])] at writes⟩
  | true =>
    rw [List.filter_cons_of_pos hc] at writes
    obtain ⟨b, d', hd, he, hw⟩ := List.map_eq_cons_iff.1 writes.symm
    exact .inr ⟨b, d', he.symm, hd, others, hw.symm⟩

theorem foldsOnly_foldEvents (d : ByteString) : FoldsOnly (foldEvents d) d where
  ordinary := List.all_eq_true.2 (by simp [foldEvents, cmdWrite, Event.isOrdinary])
  writes := List.filter_eq_self.2 (by simp [foldEvents, writesCrc_crcByte])

theorem foldEvents_length (d : ByteString) : (foldEvents d).length = d.length := List.length_map _

/-- From `s` to `t` the bytes `d` were folded into CRC_ACC; T255FIX is the same, the responses given stay, and ERR is legal. -/
structure Folded (d : ByteString) (s t : State) : Prop where
  errLegal : t.errReserved = false
  t255fix : t.t255fix = s.t255fix
  crcAcc : t.crcAcc = fold s.t255fix s.crcAcc d
  responses : s.responses <:+ t.responses

theorem Folded.append {d d' : ByteString} {s t u : State} (h : Folded d s t) (h' : Folded d' t u) :
    Folded (d ++ d') s u where
  errLegal := h'.errLegal
  t255fix := h'.t255fix.trans h.t255fix
  crcAcc := by rw [h'.crcAcc, h.crcAcc, h.t255fix, fold_append]
  responses := h.responses.trans h'.responses

section sequence
variable {s : State} {e : Event} {rest : List Event}

theorem step_seedWrite {v : Word} (he : s.errReserved = false) (hi : s.inputs = seedWrite v :: rest) :
    step s = .next (((s.setInputs rest).respond .writeOk).setCrcAcc v) :=
  (step_event s _ rest hi he).trans (act_seedWrite v _)

/-- CRC_INIT does what the seed write of `0xFFFFFFFF` does (R87). -/
theorem step_crcInit (he : s.errReserved = false) (hi : s.inputs = cmdWrite (encode .crcInit) :: rest) :
    step s = .next (((s.setInputs rest).respond .writeOk).setCrcAcc 0xFFFFFFFF) :=
  (step_event s _ rest hi he).trans (act_command .crcInit _)

/-- The result read answers the complement of CRC_ACC (R89). -/
theorem step_resultRead (he : s.errReserved = false) (hi : s.inputs = resultRead :: rest) :
    step s = .next ((s.setInputs rest).respond (.data (.b4 (~~~s.crcAcc)))) :=
  step_read he hi

/-- An ordinary event that writes no CRC state folds nothing. -/
theorem step_folds_nil (he : s.errReserved = false) (hi : s.inputs = e :: rest) (ho : e.isOrdinary = true)
    (hw : e.writesCrc = false) : ∃ t, step s = .next t ∧ t.inputs = rest ∧ Folded [] s t := by
  have hr : e ≠ .reset := by rintro rfl; cases ho
  have hl : ∀ d, e = .lateResponse d → (s.setInputs rest).pend = none := by rintro d rfl; cases ho
  obtain ⟨t, ht⟩ := act_answers_next e (s.setInputs rest) hl
  obtain ⟨u, hu, hc⟩ := act_inversion e _ t hr ht
  obtain ⟨inputs, responses⟩ := hc.keeps_observed
  obtain ⟨ctrl, crcAcc⟩ := hc.keeps_crc hr hw
  refine ⟨t, (step_event s e rest hi he).trans ht, ?_⟩
  rcases hu with rfl | ⟨r, rfl⟩
  · exact ⟨inputs, hc.keeps_errLegal he, congrArg (·.getLsbD 0) ctrl, crcAcc, responses ▸ List.suffix_refl _⟩
  · exact ⟨inputs, hc.keeps_errLegal he, congrArg (·.getLsbD 0) ctrl, crcAcc, responses ▸ List.suffix_cons _ _⟩

/-- CRC_BYTE folds its byte. -/
theorem step_folds_byte {b : Byte} (he : s.errReserved = false)
    (hi : s.inputs = cmdWrite (encode (.crcByte b)) :: rest) :
    ∃ t, step s = .next t ∧ t.inputs = rest ∧ Folded [b] s t :=
  ⟨_, (step_event s _ rest hi he).trans (act_command _ _), rfl, he, rfl, rfl, List.suffix_cons _ _⟩

/-- Ordinary events that write no CRC state but by the CRC_BYTE commands of `d` fold `d` into CRC_ACC. -/
theorem run_folds {es : List Event} {d : ByteString} (hf : FoldsOnly es d) (he : s.errReserved = false)
    (hi : s.inputs = es ++ rest) : ∃ t, run es.length s = .next t ∧ t.inputs = rest ∧ Folded d s t := by
  induction es generalizing s d with
  | nil =>
    obtain rfl := foldsOnly_nil hf
    exact ⟨s, rfl, hi, he, rfl, rfl, List.suffix_refl _⟩
  | cons e es ih =>
    rcases foldsOnly_cons hf with ⟨ordinary, keeps, others⟩ | ⟨b, d', rfl, rfl, others⟩
    · obtain ⟨t, ht, inputs, folded⟩ := step_folds_nil he hi ordinary keeps
      obtain ⟨v, hv, inputs', folded'⟩ := ih others folded.errLegal inputs
      exact ⟨v, (run_step _ _ _ ht).trans hv, inputs', folded.append folded'⟩
    · obtain ⟨t, ht, inputs, folded⟩ := step_folds_byte he hi
      obtain ⟨v, hv, inputs', folded'⟩ := ih others folded.errLegal inputs
      exact ⟨v, (run_step _ _ _ ht).trans hv, inputs', folded.append folded'⟩

/-- The same with a result read after them, which answers the complement of the fold. -/
theorem run_folds_read {es : List Event} {d : ByteString} (hf : FoldsOnly es d) (he : s.errReserved = false)
    (hi : s.inputs = es ++ resultRead :: rest) :
    ∃ t rs, run (es.length + 1) s = .next t ∧ t.inputs = rest ∧ Folded d s t ∧
      t.responses = .data (.b4 (~~~fold s.t255fix s.crcAcc d)) :: rs ∧ s.responses <:+ rs := by
  obtain ⟨t, ht, inputs, folded⟩ := run_folds hf he hi
  have read := step_resultRead folded.errLegal inputs
  refine ⟨_, t.responses, (run_add _ 1 _ _ ht).trans (run_step 0 _ _ read), rfl, ?_, by rw [folded.crcAcc]; rfl,
    folded.responses⟩
  exact ⟨folded.errLegal, folded.t255fix, folded.crcAcc, folded.responses.trans (List.suffix_cons _ _)⟩

/-- The checksum sequence of R90, from any seed. -/
theorem run_checksum {es : List Event} {d : ByteString} {seed : Word} (hf : FoldsOnly es d)
    (he : s.errReserved = false)    (hi : s.inputs = seedWrite seed :: (es ++ resultRead :: rest)) :
    ∃ t rs, run (es.length + 2) s = .next t ∧ t.inputs = rest ∧ Folded d (s.setCrcAcc seed) t ∧
      t.responses = .data (.b4 (checksum s.t255fix seed d)) :: rs ∧ s.responses <:+ rs := by
  obtain ⟨t, rs, hrun, inputs, folded, result, kept⟩ := run_folds_read
    (s := ((s.setInputs (es ++ resultRead :: rest)).respond .writeOk).setCrcAcc seed) hf he rfl
  have before : s.responses <:+ rs := (List.suffix_cons _ _).trans kept
  exact ⟨t, rs, (run_step _ _ _ (step_seedWrite he hi)).trans hrun, inputs,
    ⟨folded.errLegal, folded.t255fix, folded.crcAcc, (List.suffix_cons _ _).trans folded.responses⟩, result, before⟩

end sequence

end Sys2Proof.Machine
end

section
/-! CERTIFICATES. The statements about the CRC unit (spec/40_crc32.md), settled. -/

namespace Sys2Proof.Certificates

open Sys2Proof.Machine

/-- Settles O12: its word is the encoder's, and its step and the seed write's leave the same state. -/
theorem crcInitSetsAccumulator : Obligations.CrcInitSetsAccumulator := by
  refine ⟨decode_encode .crcInit, fun s => ⟨rfl, congrArg (some ∘ Data.b4) (by decide : ~~~(0xFFFFFFFF : Word) = 0)⟩,
    fun s rest he => ?_⟩
  exact (step_crcInit (s := s.setInputs (_ :: rest)) he rfl).trans
    (step_seedWrite (s := s.setInputs (_ :: rest)) he rfl).symm

/-- Settles O13, by the index and the top byte of a fold. -/
theorem crcByteFoldsOneByte : Obligations.CrcByteFoldsOneByte := by
  refine ⟨fun b => encode_crcByte b ▸ decode_encode _, fun b s => ⟨rfl, crcIndex_eq _ b, fun t h => ?_⟩⟩
  cases h
  rw [← crcIndex_eq]
  exact crcFold_topByte _ _ b

/-- Settles O16. -/
theorem tableFollowsBuild : Obligations.TableFollowsBuild := by
  refine ⟨fun fix i hi => ?_, table_false_255, (table_true _).trans tableEntry_255,
    (tableEntry_eq_foldl 0xFF).symm.trans tableEntry_255⟩
  rw [table_of_ne_255 fix (by rintro rfl; exact absurd hi (by decide)), tableEntry_eq_foldl]

/-- Settles O17: the build is linear; entry `0xFF` of the reference table is not the sum of entries `0xFE` and `0x01`. -/
theorem fullTableIsLinear : Obligations.FullTableIsLinear := by
  refine ⟨fun a b => ?_, fun h => absurd (h 0xFE 0x01) (by decide)⟩
  simp only [table_true, tableEntry_xor]

/-- Settles O18: the two folds differ exactly at index `0xFF`, solved for the byte and for the low byte of CRC_ACC. -/
theorem defectChangesExactlyIndex255 : Obligations.DefectChangesExactlyIndex255 := by
  intro b s
  have clear : (0 : Word).getLsbD 0 = false := BitVec.getLsbD_zero
  have set : (1 : Word).getLsbD 0 = true := by decide
  refine ⟨_, _, exec_crcByte_of_t255fix (fix := false) clear, exec_crcByte_of_t255fix (fix := true) set,
    crcFold_ne_iff _ b, ?_, crcFold_255, ?_, ?_⟩
  · exact (crcFold_ne_iff _ b).trans (xor_eq_iff_right_eq _ _ _)
  · rintro rfl
    exact (crcFold_ne_iff _ _).trans xor_right_eq_self_iff
  · rintro rfl
    exact (crcFold_ne_iff _ _).trans (Eq.congr_left BitVec.xor_zero)

/-- Settles O19: the checksum sequence of R90, with what may come between its accesses. -/
theorem checksumSequence : Obligations.ChecksumSequence := by
  intro s seed d es rest he ho hw hi
  obtain ⟨t, rs, hrun, inputs, folded, responses, -⟩ := run_checksum ⟨ho, hw⟩ he hi
  exact ⟨t, rs, hrun, inputs, folded.crcAcc, responses⟩

/-- Settles O20: a checksum sequence, then another from the seed that the first one answered. -/
theorem referenceChaining : Obligations.ReferenceChaining := by
  refine ⟨fun s seed d1 d2 rest he hi => ?_,
    0xFFFFFFFF, [0x31, 0x32, 0x33, 0x34], [0x35, 0x36, 0x37, 0x38, 0x39], by decide⟩
  obtain ⟨t, rs, hrun, inputs, folded, first, -⟩ := run_checksum (foldsOnly_foldEvents d1) he hi
  obtain ⟨t', rs', hrun', inputs', -, second, kept⟩ :=
    run_checksum (foldsOnly_foldEvents d2) folded.errLegal inputs
  rw [foldEvents_length] at hrun hrun'
  refine ⟨t', rs', ?_, inputs', ?_, kept.mem (first ▸ List.mem_cons_self)⟩
  · rw [show d1.length + d2.length + 4 = (d1.length + 2) + (d2.length + 2) by omega]
    exact (run_add _ _ _ _ hrun).trans hrun'
  · rw [second, folded.t255fix]; rfl

/-- Settles O21: the first result read leaves the accumulator, from which the second run folds on. -/
theorem streamingChecksum : Obligations.StreamingChecksum := by
  intro s seed d1 d2 rest he hi
  obtain ⟨t, rs, hrun, inputs, folded, first, -⟩ := run_checksum (foldsOnly_foldEvents d1) he hi
  obtain ⟨t', rs', hrun', inputs', -, second, kept⟩ :=
    run_folds_read (foldsOnly_foldEvents d2) folded.errLegal inputs
  rw [foldEvents_length] at hrun hrun'
  refine ⟨t', rs', ?_, inputs', by rw [fold_append], ?_, kept.mem (first ▸ List.mem_cons_self)⟩
  · rw [show d1.length + d2.length + 3 = (d1.length + 2) + (d2.length + 1) by omega]
    exact (run_add _ _ _ _ hrun).trans hrun'
  · rw [second, folded.t255fix, folded.crcAcc, checksum, fold_append]; rfl

end Sys2Proof.Certificates
end

section
/-! SUPPORT. The keyed digest (spec/41_keyed_digest.md): what KD_START and the two responses of the hash engine leave, what
every host access leaves of a running digest, and the run of one digest from its request S1 to its tag. -/

namespace Sys2Proof.Machine

/-! ## KD_START (R96 to R100) -/

/-- KD_MLEN above 256 is an error whatever KD_KLEN is (R98). -/
theorem exec_kdStart_tooLong {s : State} (hb : s.busy = false) (hm : 256 < s.kdMlen.toNat) :
    exec .kdStart s = .next (((s.setDone false).setErr 0).raise .lengthExceeded) := by
  rcases kdStart_cases s with ⟨hb', -⟩ | ⟨-, -, hx⟩ | ⟨-, hm', -⟩ | ⟨-, hm', -⟩
  · cases hb.symm.trans hb'
  · exact hx
  · exact absurd hm (Nat.not_lt.2 hm')
  · exact absurd hm (Nat.not_lt.2 hm')

theorem exec_kdStart_badKey {s : State} (hb : s.busy = false) (hm : s.kdMlen.toNat ≤ 256) (hk : s.kdKlen ≠ 32) :
    exec .kdStart s = .next (((s.setDone false).setErr 0).raise .invalidKeyLength) := by
  rcases kdStart_cases s with ⟨hb', -⟩ | ⟨-, hm', -⟩ | ⟨-, -, -, hx⟩ | ⟨-, -, hk', -⟩
  · cases hb.symm.trans hb'
  · exact absurd hm' (Nat.not_lt.2 hm)
  · exact hx
  · exact absurd (BitVec.eq_of_toNat_eq hk') hk

theorem exec_kdStart_started {s : State} (hb : s.busy = false) (hm : s.kdMlen.toNat ≤ 256) (hk : s.kdKlen = 32) :
    exec .kdStart s = .next ((s.setDone false).setErr 0).startDigest := by
  rcases kdStart_cases s with ⟨hb', -⟩ | ⟨-, hm', -⟩ | ⟨-, -, hk', -⟩ | ⟨-, -, -, hx⟩
  · cases hb.symm.trans hb'
  · exact absurd hm' (Nat.not_lt.2 hm)
  · exact absurd (congrArg BitVec.toNat hk) hk'
  · exact hx

/-- A KD_START that fails a check while BUSY is 0 leaves BUSY and DONE 0 and ERR the check's code (R98, R99). -/
theorem rejected_statusIs {s : State} (c : CommandError) (hb : s.busy = false) :
    StatusIs (((s.setDone false).setErr 0).raise c).status false false s.wign c.code s.status := by
  obtain ⟨busy, others⟩ := rejected_spec s c
  exact ⟨busy.trans hb, others⟩

theorem step_kdStart {s : State} {rest : List Event} (he : s.errReserved = false)
    (hi : s.inputs = cmdWrite (encode .kdStart) :: rest) :
    step s = exec .kdStart ((s.setInputs rest).respond .writeOk) :=
  (step_event s _ rest hi he).trans (act_command .kdStart _)

/-! ## The hash engine's step (R102, R103, R105) -/

theorem engineStep_none {s : State} (hp : s.pend = none) : s.engineStep = s := by
  rw [State.engineStep, hp]

theorem engineStep_wait1 {s : State} {m : ByteString} (hp : s.pend = some m) (hk : s.kdState = .wait1) :
    s.engineStep = s.firstResponse (Config.hash m) := by
  simp only [State.engineStep, State.hashResponse, hp, hk]

theorem engineStep_wait2 {s : State} {m : ByteString} (hp : s.pend = some m) (hk : s.kdState = .wait2) :
    s.engineStep = s.secondResponse (Config.hash m) := by
  simp only [State.engineStep, State.hashResponse, hp, hk]

theorem step_engine {s : State} {rest : List Event} (he : s.errReserved = false) (hi : s.inputs = .engine :: rest) :
    step s = .next (s.setInputs rest).engineStep :=
  step_event s _ rest hi he

theorem step_lateResponse {s : State} {d : Bytes32} {rest : List Event} (he : s.errReserved = false)
    (hp : s.pend = none) (hi : s.inputs = .lateResponse d :: rest) : step s = .next (s.setInputs rest) := by
  rw [step_event s _ rest hi he, act, takeLateResponse, setInputs_pend, hp]

/-- After the second response DIGEST is the answer, all 32 bytes (R103). -/
theorem secondResponse_digest {s : State} (d : Bytes32) (wf : s.mem.wf = true) :
    (s.secondResponse d).digest = d.toList := by
  have stored := bytesAt_writeBytes s.mem digestBase d.toList wf
  rwa [Vector.length_toList] at stored

theorem read_secondResponse {s : State} (d : Bytes32) (wf : s.mem.wf = true) (i : Nat) (h : i < 32) :
    (s.secondResponse d).mem.read (0x140 + i) = d[i] := by
  have byte : (s.secondResponse d).digest[i]? = some d[i] := by
    rw [secondResponse_digest d wf, Vector.getElem?_toList, Vector.getElem?_eq_getElem h]
  simpa [State.digest, Memory.bytesAt, h, digestBase] using byte

/-! ## The requests of a step (R101, R104) -/

/-- A request goes out in the step of a KD_START that starts a digest, and then it is S1, or in the step of the first
response, and then it is S2. -/
theorem StepCase.requests_cases {e : Event} {u t : State} (h : StepCase e u t) :
    t.requests = u.requests ∨
    (t.requests = u.s1 :: u.requests ∧ e = cmdWrite (encode .kdStart) ∧ u.busy = false ∧ u.kdMlen.toNat ≤ 256 ∧
      u.kdKlen = 32) ∨
    (t.requests = t.s2 :: u.requests ∧ e = .engine ∧ u.kdState = .wait1 ∧ u.pend ≠ none) := by
  cases h with
  | started w he hw hb hm hk ht =>
    subst t; exact .inr (.inl ⟨rfl, encode_of_decode hw ▸ he, hb, hm, BitVec.eq_of_toNat_eq hk⟩)
  | first m he hp hk ht => subst t; exact .inr (.inr ⟨rfl, he, hk, by simp [hp]⟩)
  | _ => subst t; exact .inl rfl

/-! ## Host accesses while a digest runs (R62, R111) -/

/-- From `s` to `t` a digest goes on running: BUSY is 1, ERR is legal, and the digest's own state and the storage are those
of `s`. -/
structure GoesOn (s t : State) : Prop where
  errLegal : t.errReserved = false
  busy : t.busy = true
  kdState : t.kdState = s.kdState
  pend : t.pend = s.pend
  h1 : t.h1 = s.h1
  requests : t.requests = s.requests
  kdMlen : t.kdMlen = s.kdMlen
  kdKlen : t.kdKlen = s.kdKlen
  mem : t.mem = s.mem

theorem GoesOn.refl {s : State} (he : s.errReserved = false) (hb : s.busy = true) : GoesOn s s :=
  ⟨he, hb, rfl, rfl, rfl, rfl, rfl, rfl, rfl⟩

theorem GoesOn.trans {s t u : State} (h : GoesOn s t) (h' : GoesOn t u) : GoesOn s u where
  errLegal := h'.errLegal
  busy := h'.busy
  kdState := h'.kdState.trans h.kdState
  pend := h'.pend.trans h.pend
  h1 := h'.h1.trans h.h1
  requests := h'.requests.trans h.requests
  kdMlen := h'.kdMlen.trans h.kdMlen
  kdKlen := h'.kdKlen.trans h.kdKlen
  mem := h'.mem.trans h.mem

/-- A host access while BUSY meets the lock, or a register or command that is not the digest's. -/
theorem StepCase.goesOn {a : Access} {u t : State} (h : StepCase (.access a) u t) (he : u.errReserved = false)
    (hb : u.busy = true) : GoesOn u t := by
  have legal := h.keeps_errLegal he
  cases h with
  | reset ha | first _ ha | second _ ha => cases ha
  | rejected _ _ _ free | started _ _ _ free | kdMlen _ _ free | kdKlen _ _ free | store _ _ _ free =>
    cases hb.symm.trans free
  | statClr w ha hw ht =>
    obtain ⟨-, -, busy, -⟩ := acknowledge_spec u
    subst t; exact ⟨legal, busy.trans hb, rfl, rfl, rfl, rfl, rfl, rfl, rfl⟩
  | illegal w ha hw ht => subst t; exact ⟨legal, (setErr_busy u _).trans hb, rfl, rfl, rfl, rfl, rfl, rfl, rfl⟩
  | locked _ ha ht => subst t; exact ⟨legal, (setWign_busy u true).trans hb, rfl, rfl, rfl, rfl, rfl, rfl, rfl⟩
  | _ => subst t; exact ⟨legal, hb, rfl, rfl, rfl, rfl, rfl, rfl, rfl⟩

section running
variable {s : State} {rest : List Event}

theorem step_access_goesOn {a : Access} (he : s.errReserved = false) (hb : s.busy = true)
    (hi : s.inputs = .access a :: rest) : ∃ t, step s = .next t ∧ t.inputs = rest ∧ GoesOn s t := by
  obtain ⟨t, ht⟩ := hostAccess_answers_next a (s.setInputs rest)
  have hs : step s = .next t := (step_event s _ rest hi he).trans ht
  obtain ⟨rs, hc⟩ := stepCase_of_step hi hs
  exact ⟨t, hs, hc.keeps_observed.1, { hc.goesOn he hb with }⟩

/-- Host accesses, however many, leave a running digest running. -/
theorem run_accesses_goesOn {es : List Event} (ha : es.all Event.isAccess = true) (he : s.errReserved = false)
    (hb : s.busy = true) (hi : s.inputs = es ++ rest) :
    ∃ t, run es.length s = .next t ∧ t.inputs = rest ∧ GoesOn s t := by
  induction es generalizing s with
  | nil => exact ⟨s, rfl, hi, .refl he hb⟩
  | cons e es ih =>
    rw [List.all_cons, Bool.and_eq_true] at ha
    obtain ⟨first, others⟩ := ha
    cases e with
    | access a =>
      obtain ⟨t, ht, inputs, on⟩ := step_access_goesOn he hb hi
      obtain ⟨v, hv, inputs', on'⟩ := ih others on.errLegal on.busy inputs
      exact ⟨v, (run_step _ _ _ ht).trans hv, inputs', on.trans on'⟩
    | engine | lateResponse _ | reset => cases first

/-! ## The run of one digest (R107) -/

/-- Host accesses, then the engine's step, which finds the digest as it was before them. -/
theorem run_accesses_engine {es : List Event} (ha : es.all Event.isAccess = true) (he : s.errReserved = false)
    (hb : s.busy = true) (hi : s.inputs = es ++ .engine :: rest) :
    ∃ u, run (es.length + 1) s = .next u.engineStep ∧ u.inputs = rest ∧ GoesOn s u := by
  obtain ⟨u, hu, inputs, on⟩ := run_accesses_goesOn ha he hb hi
  exact ⟨u.setInputs rest, (run_add _ 1 _ _ hu).trans (run_step 0 _ _ (step_engine on.errLegal inputs)), rfl,
    { on with }⟩

/-- From the issue of the first request `m` the run takes the first response, issues the second request and ends with the
second response, whatever accesses come before each of them. -/
theorem run_digest {as bs : List Event} {m : ByteString} (ha : as.all Event.isAccess = true)
    (hbs : bs.all Event.isAccess = true) (he : s.errReserved = false) (wf : s.mem.wf = true) (hb : s.busy = true)
    (hk : s.kdState = .wait1) (hp : s.pend = some m) (hi : s.inputs = as ++ .engine :: (bs ++ .engine :: rest)) :
    ∃ t, run (as.length + 1 + (bs.length + 1)) s = .next t ∧ t.inputs = rest ∧
      t.digest = (Config.hash (keyThenDigest s.mem (Config.hash m))).toList ∧
      t.done = true ∧ t.busy = false ∧ t.kdState = .idle ∧ t.pend = none ∧
      t.requests = keyThenDigest s.mem (Config.hash m) :: s.requests := by
  obtain ⟨u, hu, inputs, on⟩ := run_accesses_engine ha he hb hi
  rw [engineStep_wait1 (on.pend.trans hp) (on.kdState.trans hk)] at hu
  have outstanding : (u.firstResponse (Config.hash m)).pend = some (keyThenDigest s.mem (Config.hash m)) := by
    rw [← on.mem]; rfl
  have issued : (u.firstResponse (Config.hash m)).requests =
      keyThenDigest s.mem (Config.hash m) :: s.requests := by
    rw [← on.mem, ← on.requests]; rfl
  obtain ⟨v, hv, inputs', on'⟩ :=
    run_accesses_engine (s := u.firstResponse (Config.hash m)) hbs on.errLegal on.busy inputs
  rw [engineStep_wait2 (on'.pend.trans outstanding) on'.kdState] at hv
  have wf' : v.mem.wf = true := by rw [on'.mem.trans on.mem, wf]
  obtain ⟨busy, done, -⟩ := secondResponse_spec v (Config.hash (keyThenDigest s.mem (Config.hash m)))
  exact ⟨_, (run_add _ _ _ _ hu).trans hv, inputs', secondResponse_digest _ wf', done, busy, rfl, rfl,
    on'.requests.trans issued⟩

end running

end Sys2Proof.Machine
end

section
/-! CERTIFICATES. The statements about the keyed digest (spec/41_keyed_digest.md), settled. -/

namespace Sys2Proof.Certificates

open Sys2Proof.Machine

/-- Settles O30: the KD_START leaves S1 outstanding, and `run_digest` goes on from there. -/
theorem keyedDigestEndToEnd : Obligations.KeyedDigestEndToEnd := by
  intro s as bs rest he wf hb hm hk has hbs hi
  obtain ⟨busy, -, -, err, -⟩ :=
    started_spec ((s.setInputs (as ++ .engine :: (bs ++ .engine :: rest))).respond .writeOk)
  have legal := (errReserved_eq_false_iff _).2 (by rw [err]; decide)
  have started := (step_kdStart he hi).trans (exec_kdStart_started hb hm hk)
  obtain ⟨t, ht, inputs, tag, others⟩ := run_digest has hbs legal wf busy rfl rfl rfl
  refine ⟨t, ?_, inputs, tag, tag, others⟩
  rw [show as.length + bs.length + 3 = as.length + 1 + (bs.length + 1) + 1 by omega]
  exact (run_step _ _ _ started).trans ht

/-- Settles O31: by O30 each run ends with KD of its key and message, which are the same strings. -/
theorem tagDependsOnKeyAndMessageOnly : Obligations.TagDependsOnKeyAndMessageOnly := by
  intro s s' as bs rest as' bs' rest' he he' wf wf' hb hb' hm hk hm' hk' hkey hmsg has hbs has' hbs' hi hi'
  obtain ⟨t, run, -, -, tag, -⟩ := keyedDigestEndToEnd s as bs rest he wf hb hm hk has hbs hi
  obtain ⟨t', run', -, -, tag', -⟩ :=
    keyedDigestEndToEnd s' as' bs' rest' he' wf' hb' (hm' ▸ hm) hk' has' hbs' hi'
  have key : s'.key = s.key := bytesAt_congr s.mem s'.mem keyBase 32 hkey
  have msg : s'.msg s.kdMlen.toNat = s.msg s.kdMlen.toNat := bytesAt_congr s.mem s'.mem msgBase _ hmsg
  exact ⟨t, t', run, run', by rw [tag', tag, hm', key, msg], bytesAt_length _ _ _⟩

/-- Settles O32, by the requests of each case of a step. -/
theorem requestsOnlyFromStartAndFirstResponse : Obligations.RequestsOnlyFromStartAndFirstResponse := by
  intro s t e rest hi h
  obtain ⟨rs, hc⟩ := stepCase_of_step hi h
  exact hc.requests_cases

/-- Settles O34, by induction on the accesses. -/
theorem hostCannotDisturbRunningDigest : Obligations.HostCannotDisturbRunningDigest := by
  intro s es rest he hb ha hi
  obtain ⟨t, ht, inputs, on⟩ := run_accesses_goesOn ha he hb hi
  exact ⟨t, ht, inputs, on.busy, on.kdState, on.pend, on.h1, on.requests, on.kdMlen, on.kdKlen,
    fun a => by rw [on.mem]⟩

/-- Settles O56: S1 has 32 to 288 bytes and S2 has 64, and no other request goes out. -/
theorem hashRequestsKeepTheirLengths : Obligations.HashRequestsKeepTheirLengths := by
  intro s t hs h
  exact step_keeps (P := State.portLegal) (fun _ _ _ hs => hs) StepCase.keeps_portLegal h hs

/-- Settles O22: the checks pass, so the digest starts, with S1 as long as its parts. -/
theorem kdStartStartsDigest : Obligations.KdStartStartsDigest := by
  intro s hb hm hk
  exact ⟨s1_length s, _, exec_kdStart_started hb hm hk, started_spec s⟩

/-- Settles O23: the message length is checked first. -/
theorem kdStartLengthExceeded : Obligations.KdStartLengthExceeded := by
  intro s hb hm
  exact ⟨_, exec_kdStart_tooLong hb hm, rejected_statusIs .lengthExceeded hb⟩

/-- Settles O24: the key length is checked once the message length has passed. -/
theorem kdStartInvalidKeyLength : Obligations.KdStartInvalidKeyLength := by
  intro s hb hm hk
  exact ⟨_, exec_kdStart_badKey hb hm hk, rejected_statusIs .invalidKeyLength hb⟩

/-- Settles O25, by the lock. -/
theorem kdStartDiscardedWhileBusy : Obligations.KdStartDiscardedWhileBusy := by
  intro s hb
  exact ⟨_, exec_kdStart_locked s hb, setWign_statusIs s hb⟩

/-- Settles O26: in WAIT1 the engine's step is the first response, which writes no STATUS and no storage. -/
theorem firstHashResponse : Obligations.FirstHashResponse := by
  intro s m rest he hk hp hi
  have first := engineStep_wait1 (s := s.setInputs rest) hp hk
  exact (step_engine he hi).trans (congrArg Host.Outcome.next first)

/-- Settles O27: the tag is stored at the offsets of DIGEST, and STATUS takes BUSY 0 and DONE 1. -/
theorem secondHashResponse : Obligations.SecondHashResponse := by
  intro s m rest he wf hk hp hi
  have second := engineStep_wait2 (s := s.setInputs rest) hp hk
  exact ⟨_, _, (step_engine he hi).trans (congrArg Host.Outcome.next second), secondResponse_spec _ _,
    read_secondResponse _ wf, fun a ha => read_secondResponse_ne _ _ ha⟩

/-- Settles O28: neither event finds a request to answer. -/
theorem unexpectedResponseIgnored : Obligations.UnexpectedResponseIgnored := by
  rintro s e rest he hp hi (rfl | ⟨d, rfl⟩)
  · have idle := engineStep_none (s := s.setInputs rest) hp
    exact (step_engine he hi).trans (congrArg Host.Outcome.next idle)
  · exact step_lateResponse he hp hi

end Sys2Proof.Certificates
end

section
/-! SUPPORT. The control commands (spec/42_control.md): what a CMD write of an illegal word and STAT_CLR leave. -/

namespace Sys2Proof.Machine

/-- A word that is no command's raises IllegalCommand (R118). -/
theorem runCommand_illegal {w : Word} (h : ∀ i, encode i ≠ w) (s : State) :
    runCommand w s = .next (s.raise .illegalCommand) := by
  rcases runCommand_cases w s with ⟨i, legal, -⟩ | ⟨-, raised⟩
  · exact absurd (encode_of_decode legal) (h i)
  · exact raised

theorem step_illegalWrite {s : State} {w : Word} {rest : List Event} (he : s.errReserved = false)
    (hi : s.inputs = cmdWrite w :: rest) (h : ∀ i, encode i ≠ w) :
    step s = .next (((s.setInputs rest).respond .writeOk).raise .illegalCommand) := by
  rw [step_event s _ rest hi he, act_cmdWrite, runCommand_illegal h]

/-- Acknowledging clears DONE, WIGN and ERR and keeps BUSY and the reserved bits (R117, R132). -/
theorem acknowledge_statusIs (s : State) : StatusIs s.acknowledge.status s.busy false false 0 s.status := by
  obtain ⟨-, err, busy, done, wign, reserved⟩ := acknowledge_spec s
  exact ⟨busy, done, wign, err, reserved⟩

end Sys2Proof.Machine
end

section
/-! CERTIFICATES. The statements about the control commands (spec/42_control.md), settled. -/

namespace Sys2Proof.Certificates

open Sys2Proof.Machine

/-- Settles O10: the word decodes to no command, so the CMD write raises IllegalCommand, whatever BUSY is. -/
theorem illegalWordRaisesIllegalCommand : Obligations.IllegalWordRaisesIllegalCommand := by
  intro s w rest he hi hw
  exact ⟨_, step_illegalWrite he hi hw, raise_illegal_statusIs ((s.setInputs rest).respond .writeOk)⟩

/-- Settles O14: its word is the encoder's, and STAT_CLR acknowledges. -/
theorem statClrClearsFlags : Obligations.StatClrClearsFlags :=
  ⟨decode_encode .statClr, fun s => ⟨s.acknowledge.status, rfl, acknowledge_statusIs s⟩⟩

/-- Settles O11: NOP answers the state it was given, its word is the encoder's, and each of the two neighbours fails every
test of the decoder. -/
theorem nopLeavesEverything : Obligations.NopLeavesEverything :=
  ⟨fun _ => rfl, decode_encode .nop, by decide, by decide⟩

end Sys2Proof.Certificates
end

section
/-! SUPPORT. BusError, the reporting of command errors and the order of the two agents (spec/60_exceptions.md): what an
access the block performs answers, the ERR field of a STATUS read, and that the hash engine's step and a CRC operation each
do the same whatever the other unit's state is. -/

namespace Sys2Proof.Machine

/-! ## Two steps -/

theorem run_two {s t u : State} (first : step s = .next t) (second : step t = .next u) : run 2 s = .next u :=
  (run_step 1 s t first).trans (run_step 0 t u second)

/-! ## The answer to an access the block performs (R122, R123) -/

theorem readResponse_performed {off : BitVec 11} {n : Size} (s : State) (h : ¬ accessRejected off n) :
    ∃ d, readResponse off n s = .data d ∧ d.size = n := by
  obtain ⟨d, hd, size⟩ := memRead_performed off n s (busFault_false off n h)
  exact ⟨d, by rw [readResponse, hd], size⟩

/-- What a write does after it was answered gives no further response. -/
theorem WriteCase.keeps_responses {off : BitVec 11} {d : Data} {ok t : State} (h : WriteCase off d ok t) :
    t.responses = ok.responses := by
  cases h with
  | command v i ho hd hi ht => exact (exec_case v i ok t hi ht).keeps_observed.2
  | _ => subst t; rfl

theorem step_write_answersOk {s : State} {off : BitVec 11} {d : Data} {rest : List Event} (he : s.errReserved = false)
    (hi : s.inputs = .access (.write off d) :: rest) (h : ¬ accessRejected off d.size) :
    ∃ t, step s = .next t ∧ t.responses = .writeOk :: s.responses := by
  obtain ⟨t, ht⟩ := hostAccess_answers_next (.write off d) (s.setInputs rest)
  have performed := write_inversion off d _ t (busFault_false off _ h) ht
  exact ⟨t, (step_event s _ rest hi he).trans ht, performed.keeps_responses⟩

/-! ## ERR in a STATUS read (R131) -/

/-- The mask of a STATUS read keeps all of ERR. -/
theorem statusWord_err (s : State) : s.statusWord.extractLsb' 4 4 = s.err := by
  have mask : statusMask.extractLsb' 4 4 = BitVec.allOnes 4 := by decide
  rw [State.statusWord, BitVec.extractLsb'_and, mask, BitVec.and_allOnes, State.err]

theorem step_statusRead {s : State} {rest : List Event} (he : s.errReserved = false)
    (hi : s.inputs = statusRead :: rest) :
    step s = .next ((s.setInputs rest).respond (.data (.b4 s.statusWord))) :=
  step_read he hi

/-- A CMD write always answers a next state, which can take the event that follows. -/
theorem step_cmdWrite {s : State} {w : Word} {rest : List Event} (he : s.errReserved = false)
    (hi : s.inputs = cmdWrite w :: rest) : ∃ t, step s = .next t ∧ t.inputs = rest ∧ t.errReserved = false := by
  obtain ⟨t, ht⟩ := step_answers_next s he (by simp [hi, cmdWrite, Event.isLateResponse])
  obtain ⟨rs, hc⟩ := stepCase_of_step hi ht
  exact ⟨t, ht, hc.keeps_observed.1, hc.keeps_errLegal he⟩

/-! ## The hash engine's step beside a CRC operation (R129, R63) -/

theorem engineStep_err (s : State) : s.engineStep.err = s.err := by
  rcases engineStep_cases s with h | ⟨m, -, -, h⟩ | ⟨m, -, -, h⟩ <;> rw [h]
  · rfl
  · obtain ⟨-, -, -, err, -⟩ := secondResponse_spec s (Config.hash m)
    exact err

/-- The hash engine's step looks at the KD unit's part only, and writes nothing else. -/
theorem engineStep_withKdOf (s k : State) : (s.withKdOf k).engineStep = s.withKdOf k.engineStep := by
  obtain ⟨_, _, _, _, _, _, kdState, _, pend, _, _, _⟩ := k
  cases pend with
  | none => rfl
  | some m => cases kdState <;> rfl

theorem step_engine_withKdOf (s : State) {k : State} (rest : List Event) (he : k.errReserved = false) :
    step ((s.withKdOf k).setInputs (.engine :: rest)) = .next ((s.withKdOf k.engineStep).setInputs rest) :=
  (step_engine (s := (s.withKdOf k).setInputs _) he rfl).trans
    (congrArg Host.Outcome.next (engineStep_withKdOf (s.setInputs rest) k))

/-- A CRC operation keeps KD state, STATUS and the events to come, and what it answers and writes (`t`) depends on none of
them. -/
theorem act_crcOp {e : Event} (he : e.isCrcOp = true) (s : State) :
    ∃ t : State, ∀ k es, act e ((s.withKdOf k).setInputs es) = .next ((t.withKdOf k).setInputs es) := by
  rcases crcOp_cases he with ⟨off, n, rfl, hp⟩ | ⟨v, rfl⟩ | ⟨v, rfl⟩ | rfl | ⟨b, rfl⟩
  · refine ⟨s.respond (readResponse off n s), fun k es => ?_⟩
    rw [← readResponse_withKdOf n s k hp]
    exact act_read _ _ _
  · exact ⟨(s.respond .writeOk).setCtrl (v &&& ctrlMask), fun k es => act_ctrlWrite v _⟩
  · exact ⟨(s.respond .writeOk).setCrcAcc v, fun k es => act_seedWrite v _⟩
  · exact ⟨(s.respond .writeOk).setCrcAcc 0xFFFFFFFF, fun k es => act_command .crcInit _⟩
  · exact ⟨(s.respond .writeOk).setCrcAcc (crcFold s.t255fix s.crcAcc b), fun k es => act_command (.crcByte b) _⟩

theorem step_crcOp {e : Event} (hc : e.isCrcOp = true) (s : State) : ∃ t : State, ∀ k rest, k.errReserved = false →
    step ((s.withKdOf k).setInputs (e :: rest)) = .next ((t.withKdOf k).setInputs rest) := by
  obtain ⟨t, ht⟩ := act_crcOp hc s
  exact ⟨t, fun k rest he => (step_event ((s.withKdOf k).setInputs _) e rest rfl he).trans (ht k rest)⟩

end Sys2Proof.Machine
end

section
/-! CERTIFICATES. The statements about errors and the order of events (spec/60_exceptions.md), settled. -/

namespace Sys2Proof.Certificates

open Sys2Proof.Machine

/-- Settles O36: reads and writes apart, each by its rule when rejected and by its rule when performed. -/
theorem busErrorExactlyForItsCauses : Obligations.BusErrorExactlyForItsCauses := by
  intro s a rest he hi
  cases a with
  | read off n =>
    refine ⟨fun h => ?_, fun h => ?_⟩
    · exact readResponse_rejected s h ▸ step_read he hi
    · obtain ⟨d, hd, size⟩ := readResponse_performed s h
      exact ⟨_, .data d, hd ▸ step_read he hi, rfl, nofun, nofun, fun _ => ⟨d, rfl, size⟩⟩
  | write off d =>
    refine ⟨step_write_rejected he hi, fun h => ?_⟩
    obtain ⟨t, ht, responses⟩ := step_write_answersOk he hi h
    exact ⟨t, .writeOk, ht, responses, nofun, fun _ => rfl, nofun⟩

/-- Settles O41: the STATUS read shows the ERR that the CMD write left, which is the code its rule raises. -/
theorem errorsReportedSynchronously : Obligations.ErrorsReportedSynchronously := by
  intro s w rest he hi
  obtain ⟨t, ht, inputs, legal⟩ := step_cmdWrite he hi
  have shown : ∀ u, step s = .next u → t.statusWord.extractLsb' 4 4 = u.err := by
    intro u hu
    cases ht.symm.trans hu
    exact statusWord_err t
  refine ⟨_, t.statusWord, t.responses, run_two ht (step_statusRead legal inputs), rfl, rfl, fun hw => ?_, ?_, ?_⟩
  · obtain ⟨-, err, -⟩ := raise_spec ((s.setInputs (statusRead :: rest)).respond .writeOk) .illegalCommand
    exact (shown _ (step_illegalWrite he hi hw)).trans err
  · rintro rfl hb hm
    obtain ⟨-, -, -, err, -⟩ := rejected_spec ((s.setInputs (statusRead :: rest)).respond .writeOk) .lengthExceeded
    exact (shown _ ((step_kdStart he hi).trans (exec_kdStart_tooLong hb hm))).trans err
  · rintro rfl hb hm hk
    obtain ⟨-, -, -, err, -⟩ := rejected_spec ((s.setInputs (statusRead :: rest)).respond .writeOk) .invalidKeyLength
    exact (shown _ ((step_kdStart he hi).trans (exec_kdStart_badKey hb hm hk))).trans err

/-- Settles O45: the engine's step only replaces the KD part, and the CRC operation does the same beside either one. -/
theorem crcOpsCommuteWithEngineSteps : Obligations.CrcOpsCommuteWithEngineSteps := by
  intro s e rest he hc
  obtain ⟨t, crcOp⟩ := step_crcOp hc s
  have legal : s.engineStep.errReserved = false := by rw [State.errReserved, engineStep_err]; exact he
  have crcFirst : run 2 (s.setInputs (e :: .engine :: rest)) = .next ((t.withKdOf s.engineStep).setInputs rest) :=
    run_two (crcOp s _ he) (step_engine_withKdOf t rest he)
  have engineFirst : run 2 (s.setInputs (.engine :: e :: rest)) = .next ((t.withKdOf s.engineStep).setInputs rest) :=
    run_two (step_engine_withKdOf s (e :: rest) he) (crcOp s.engineStep rest legal)
  exact crcFirst.trans engineFirst.symm

/-- Settles O49: with no event to come the step is a wait. -/
theorem noEventNoChange : Obligations.NoEventNoChange := fun _ => step_wait

end Sys2Proof.Certificates
end

section
/-! SUPPORT. Reset and the end of a digest (spec/70_reset_and_hazards.md): what the sequencer invariant says of BUSY, the
answer to any host access, and that each engine step of a schedule brings a running digest nearer its end. -/

namespace Sys2Proof.Machine

/-! ## BUSY and KD_STATE (R36) -/

theorem idle_iff_free {s : State} (hs : s.sequencerConsistent) : s.kdState = .idle ↔ s.busy = false := by
  refine ⟨fun hk => ?_, fun hb => (idle_of_free hs hb).1⟩
  obtain ⟨busy, -⟩ := hs
  exact Bool.eq_false_iff.2 fun hb => busy.1 hb hk

/-- While BUSY is 1 the sequencer waits for the answer to the first or to the second request, which is outstanding. -/
theorem waiting_of_busy {s : State} (hs : s.sequencerConsistent) (hb : s.busy = true) :
    (s.kdState = .wait1 ∨ s.kdState = .wait2) ∧ ∃ m, s.pend = some m := by
  obtain ⟨busy, -, first, second⟩ := hs
  cases hk : s.kdState with
  | idle => exact absurd hk (busy.1 hb)
  | wait1 => exact ⟨.inl rfl, _, first hk⟩
  | wait2 => exact ⟨.inr rfl, _, second hk⟩

/-! ## Host accesses and late answers -/

/-- Every host access is answered, with one response (R53). -/
theorem step_access_answered {s : State} {a : Access} {rest : List Event} (he : s.errReserved = false)
    (hi : s.inputs = .access a :: rest) : ∃ t r, step s = .next t ∧ t.responses = r :: s.responses := by
  cases a with
  | read off n => exact ⟨_, _, step_read he hi, rfl⟩
  | write off d =>
    by_cases h : accessRejected off d.size
    · exact ⟨_, _, step_write_rejected he hi h, rfl⟩
    · obtain ⟨t, ht, responses⟩ := step_write_answersOk he hi h
      exact ⟨t, _, ht, responses⟩

theorem step_lateResponse_refused {s : State} {d : Bytes32} {m : ByteString} {rest : List Event}
    (he : s.errReserved = false) (hp : s.pend = some m) (hi : s.inputs = .lateResponse d :: rest) :
    step s = .refused .platformBrokeResetDuty := by
  rw [step_event s _ rest hi he, act, takeLateResponse, setInputs_pend, hp]

/-! ## Schedules with engine steps (R153) -/

/-- A schedule of accesses and engine steps in which the engine steps: the accesses before its first step, and what comes
after that step. -/
theorem split_at_engine {es : List Event} (ho : es.all Event.isOrdinary = true) (hm : .engine ∈ es) :
    ∃ as rest, es = as ++ .engine :: rest ∧ as.all Event.isAccess = true ∧ rest.all Event.isOrdinary = true ∧
      es.count .engine = rest.count .engine + 1 := by
  obtain ⟨as, rest, rfl, absent⟩ := List.eq_append_cons_of_mem hm
  rw [List.all_append, List.all_cons, Bool.and_eq_true, Bool.and_eq_true] at ho
  obtain ⟨before, -, after⟩ := ho
  refine ⟨as, rest, rfl, List.all_eq_true.2 fun e he => ?_, after, ?_⟩
  · have ordinary := List.all_eq_true.1 before e he
    cases e with
    | access a => rfl
    | engine => exact absurd he absent
    | lateResponse _ | reset => cases ordinary
  · rw [List.count_append, List.count_cons_self, List.count_eq_zero.2 absent, Nat.zero_add]

section ending
variable {s : State} (he : s.errReserved = false) (hb : s.busy = true)
  (ho : s.inputs.all Event.isOrdinary = true)
include he hb ho

/-- A running digest goes on up to the engine's next step, which finds it as it was. -/
theorem run_to_engine (hm : .engine ∈ s.inputs) :
    ∃ k u, run k s = .next u.engineStep ∧ GoesOn s u ∧ k + u.inputs.length = s.inputs.length ∧
      u.inputs.all Event.isOrdinary = true ∧ s.inputs.count .engine = u.inputs.count .engine + 1 := by
  obtain ⟨as, rest, split, accesses, ordinary, steps⟩ := split_at_engine ho hm
  obtain ⟨u, hu, rfl, on⟩ := run_accesses_engine accesses he hb split
  refine ⟨_, u, hu, on, ?_, ordinary, steps⟩
  rw [split, List.length_append, List.length_cons]
  omega

/-- In WAIT2 the engine's next step ends the digest. -/
theorem wait2_ends {m : ByteString} (hk : s.kdState = .wait2) (hp : s.pend = some m) (hc : 1 ≤ s.inputs.count .engine) :
    ∃ k t, k ≤ s.inputs.length ∧ run k s = .next t ∧ t.busy = false := by
  obtain ⟨k, u, hu, on, length, -⟩ := run_to_engine he hb ho (List.count_pos_iff.1 hc)
  rw [engineStep_wait2 (on.pend.trans hp) (on.kdState.trans hk)] at hu
  obtain ⟨free, -⟩ := secondResponse_spec u (Config.hash m)
  exact ⟨k, _, by omega, hu, free⟩

/-- In WAIT1 the engine's next step leads to WAIT2, and the one after it ends the digest. -/
theorem wait1_ends {m : ByteString} (hk : s.kdState = .wait1) (hp : s.pend = some m) (hc : 2 ≤ s.inputs.count .engine) :
    ∃ k t, k ≤ s.inputs.length ∧ run k s = .next t ∧ t.busy = false := by
  obtain ⟨k, u, hu, on, length, ordinary, steps⟩ := run_to_engine he hb ho (List.count_pos_iff.1 (by omega))
  rw [engineStep_wait1 (on.pend.trans hp) (on.kdState.trans hk)] at hu
  have owed : 1 ≤ u.inputs.count .engine := by omega
  obtain ⟨j, t, hj, ht, free⟩ :=
    wait2_ends (s := u.firstResponse (Config.hash m)) on.errLegal on.busy ordinary rfl rfl owed
  exact ⟨k + j, t, (Nat.add_le_add_left hj k).trans_eq length, (run_add k j _ _ hu).trans ht, free⟩

end ending

end Sys2Proof.Machine
end

section
/-! CERTIFICATES. The statements about reset and the end of a digest (spec/70_reset_and_hazards.md), settled. -/

namespace Sys2Proof.Certificates

open Sys2Proof.Machine

/-- Settles O35: a digest waits for at most two answers, and the schedule holds two engine steps. -/
theorem twoEngineStepsEndTheDigest : Obligations.TwoEngineStepsEndTheDigest := by
  intro s ⟨⟨_, _, he⟩, sequencer, _⟩ ho hc
  cases hb : s.busy with
  | false => exact ⟨0, s, Nat.zero_le _, run_zero s, hb⟩
  | true =>
    obtain ⟨hk | hk, m, hp⟩ := waiting_of_busy sequencer hb
    · exact wait1_ends he hb ho hk hp hc
    · exact wait2_ends he hb ho hk hp (by omega)

/-- Settles O2: the reset event leaves the reset state beside the two lists of what was observed, and an access to that
state is answered. -/
theorem resetEventRestoresEveryElement : Obligations.ResetEventRestoresEveryElement := by
  intro s rest hi
  obtain ⟨busy, done, -, err⟩ := resetEvent_flags (s.setInputs rest)
  have legal : (s.setInputs rest).resetEvent.errReserved = false :=
    (errReserved_eq_false_iff _).2 (by rw [err]; decide)
  exact ⟨_, step_reset s rest hi, rfl, rfl, rfl, rfl, rfl, fun _ => rfl, rfl, rfl, rfl, rfl, rfl, rfl, busy,
    sequencerConsistent_of_idle busy rfl rfl, completionConsistent_of_stopped busy done,
    fun a rest' h => step_access_answered legal h⟩

/-- Settles O29: the late answer meets a request that is outstanding. -/
theorem brokenResetDutyRefused : Obligations.BrokenResetDutyRefused := fun _ _ _ _ => step_lateResponse_refused

/-- Settles O54: by the sequencer invariant IDLE and BUSY 0 are the same, and no request is outstanding then. -/
theorem endedRunOwesNoDigest : Obligations.EndedRunOwesNoDigest := by
  intro s hs
  refine ⟨and_congr_right' (idle_iff_free hs), fun ⟨_, idle⟩ => ?_⟩
  obtain ⟨-, answered⟩ := idle_of_free hs ((idle_iff_free hs).1 idle)
  exact answered

end Sys2Proof.Certificates
end

section
/-! SUPPORT. Reserved ERR codes (spec/93_implementation_defined.md U10): the step that complements `step_event`. -/

namespace Sys2Proof.Machine

/-- In a state whose ERR is reserved the block delivers no event but reset (U10; log entry 7). -/
theorem deliver_reserved {e : Event} {s : State} (he : s.errReserved = true) (hr : e ≠ .reset) :
    deliver e s = .fault .reservedErrCode :=
  if_pos (by rw [he, Bool.true_and, bne_iff_ne]; exact hr)

/-- Taking the event off the schedule leaves ERR as it is, so the step faults as the delivery does. -/
theorem step_reserved {s : State} {e : Event} {rest : List Event} (he : s.errReserved = true)
    (hi : s.inputs = e :: rest) (hr : e ≠ .reset) : step s = .fault .reservedErrCode := by
  have reserved : (s.setInputs rest).errReserved = true := he
  rw [step, hi]
  exact deliver_reserved reserved hr

end Sys2Proof.Machine
end

section
/-! CERTIFICATES. The statement about reserved ERR codes (spec/93_implementation_defined.md), settled. -/

namespace Sys2Proof.Certificates

open Sys2Proof.Machine

/-- Settles O48: a state whose ERR is reserved delivers only the reset event. -/
theorem reservedErrCodeFaults : Obligations.ReservedErrCodeFaults := fun _ _ _ => step_reserved

end Sys2Proof.Certificates
end
